-- ==== Sys2Proof/Word.lean ====
section
/-!
DEFINITION. The bit-vector types the EMAC's values have (00_scope.md R14, R16). Nothing here is signed.
-/

namespace Sys2Proof

/-- A register, a descriptor word, a bus address (R14: every EMAC register and every address is 32 bits). -/
abbrev Word := BitVec 32

/-- A byte of system memory or of a frame. -/
abbrev Byte := BitVec 8

/-- A PHY register's value (R14). -/
abbrev Half := BitVec 16

/-- A PHY address or a PHY register address (R14). -/
abbrev PhyIndex := BitVec 5

/-- A `BUS9` command: bit 8 is W, bits 7:0 the byte offset (30_encoding.md R202). -/
abbrev BusCommand := BitVec 9

end Sys2Proof
end

