-- ==== Sys2Proof/Syntax.lean ====
section
/-!
DEFINITION. The commands of the EMAC, one constructor per row of spec/opcode_table.json (00_scope.md R2,
30_encoding.md R234): 25 register operations, three TX descriptor forms, two RX descriptor forms and two
management frames.
-/

namespace Sys2Proof

/-- The 15 memory-mapped registers (10_state.md R50). -/
inductive Reg where
  | ncr | ncfg | nsr | tsr | rbqp | tbqp | rsr | isr | ier | idr | imr | man | sa1b | sa1t | usrio
  deriving DecidableEq, Repr, Inhabited

/-- The four formats of 30_encoding.md R234. -/
inductive Format where
  | bus9 | txdW1 | rxdW0 | man32
  deriving DecidableEq, Repr, Inhabited

/-- The fields of a TX descriptor's word 1 beside `USED` and `LAST` (30_encoding.md R217).
The two reserved fields are kept so that a descriptor that breaks R219 can be written down and refused. -/
structure TxFields where
  /-- `LEN`, bits 10:0. -/
  len : BitVec 11
  /-- The reserved bits 14:11. -/
  resLow : BitVec 4
  /-- The reserved bits 26:16. -/
  resHigh : BitVec 11
  /-- `BEX`, bit 27, an output ignored on input. -/
  bex : Bool
  /-- `UND`, bit 28, an output ignored on input. -/
  und : Bool
  /-- `RLE`, bit 29, an output ignored on input. -/
  rle : Bool
  /-- `WRAP`, bit 30. -/
  wrap : Bool
  deriving DecidableEq, Repr, Inhabited

/-- The fields of an RX descriptor's word 0 beside `OWN` (30_encoding.md R212). -/
structure RxFields where
  /-- `ADDR`, bits 31:2. -/
  addr : BitVec 30
  /-- `WRAP`, bit 1. -/
  wrap : Bool
  deriving DecidableEq, Repr, Inhabited

/-- The operand fields of a management frame (30_encoding.md R220). -/
structure ManFields where
  /-- `PHYA`, bits 27:23. -/
  phya : PhyIndex
  /-- `REGA`, bits 22:18. -/
  rega : PhyIndex
  /-- `DATA`, bits 15:0. -/
  data : Half
  deriving DecidableEq, Repr, Inhabited

/-- The commands. A register write carries its 32-bit data word (R202). `txdStop` also carries bit 15 (`LAST`),
which its row does not fix. -/
inductive Instr where
  | rdNcr
  | wrNcr (v : Word)
  | rdNcfg
  | wrNcfg (v : Word)
  | rdNsr
  | rdTsr
  | wrTsr (v : Word)
  | rdRbqp
  | wrRbqp (v : Word)
  | rdTbqp
  | wrTbqp (v : Word)
  | rdRsr
  | wrRsr (v : Word)
  | rdIsr
  | wrIer (v : Word)
  | wrIdr (v : Word)
  | rdImr
  | rdMan
  | wrMan (v : Word)
  | rdSa1b
  | wrSa1b (v : Word)
  | rdSa1t
  | wrSa1t (v : Word)
  | rdUsrio
  | wrUsrio (v : Word)
  | txdStop (last : Bool) (f : TxFields)
  | txdBuf (f : TxFields)
  | txdLast (f : TxFields)
  | rxdFree (f : RxFields)
  | rxdFull (f : RxFields)
  | mdioRead (f : ManFields)
  | mdioWrite (f : ManFields)
  deriving DecidableEq, Repr, Inhabited

end Sys2Proof
end

