-- ==== Sys2Proof/Decode.lean ====
section
/-!
DEFINITION. The encodings of 30_encoding.md: the register map, the bit fields, the decoder (total on any bytes,
refusing by name) and, after it, the encoder.
-/

namespace Sys2Proof

/-! ### Bytes and words (20_memory.md R152, R153, R155) -/

/-- The 32-bit little-endian word of four bytes, lowest address first (R153). -/
def leWord (b0 b1 b2 b3 : Byte) : Word :=
  b3 ++ b2 ++ b1 ++ b0

/-- Byte `k` of a word, byte 0 the least significant. -/
def byteOf (v : Word) (k : Nat) : Byte :=
  v.extractLsb' (8 * k) 8

/-- The four bytes of a word, lowest address first (R155). -/
def leBytes (v : Word) : List Byte :=
  [byteOf v 0, byteOf v 1, byteOf v 2, byteOf v 3]

/-! ### Registers -/

/-- The offset of a register from `EMAC_BASE` (R200). -/
def Reg.offset : Reg → BitVec 8
  | .ncr => 0x00
  | .ncfg => 0x04
  | .nsr => 0x08
  | .tsr => 0x14
  | .rbqp => 0x18
  | .tbqp => 0x1C
  | .rsr => 0x20
  | .isr => 0x24
  | .ier => 0x28
  | .idr => 0x2C
  | .imr => 0x30
  | .man => 0x34
  | .sa1b => 0x98
  | .sa1t => 0x9C
  | .usrio => 0xC0

/-- The 15 registers, in the order of R200. -/
def allRegs : List Reg :=
  [.ncr, .ncfg, .nsr, .tsr, .rbqp, .tbqp, .rsr, .isr, .ier, .idr, .imr, .man, .sa1b, .sa1t, .usrio]

/-- The register at an offset, if R200 lists one. -/
def regAt (off : BitVec 8) : Option Reg :=
  allRegs.find? fun r => r.offset == off

/-- The `BUS9` command of a register operation (R202). -/
def busCommand (write : Bool) (r : Reg) : BusCommand :=
  BitVec.ofBool write ++ r.offset

/-- R219: `LEN` is not 0 and the reserved fields are 0. -/
def TxFields.wf (f : TxFields) : Bool :=
  f.len != 0 && f.resLow == 0 && f.resHigh == 0

/-- The writable bits of each register a host write may name (10_state.md R51 to R63): every other bit is reserved.
`TGO`, bit 3 of `TSR`, is not reserved: its write is ignored (R260). -/
def Reg.writable : Reg → Word
  | .ncr => 0x21C
  | .ncfg => 0xC03
  | .nsr => 0
  | .tsr => 0x7F
  | .rbqp => 0xFFFFFFFF
  | .tbqp => 0xFFFFFFFF
  | .rsr => 0x7
  | .isr => 0
  | .ier => 0xCFF
  | .idr => 0xCFF
  | .imr => 0
  | .man => 0xFFFFFFFF
  | .sa1b => 0xFFFFFFFF
  | .sa1t => 0xFFFF
  | .usrio => 0x3

/-- No reserved bit of `r` is set in `v`. -/
def Reg.accepts (r : Reg) (v : Word) : Bool :=
  v &&& ~~~r.writable == 0

/-- A queue pointer value is 8-aligned (R55, R56). -/
def queueAligned (v : Word) : Bool :=
  v &&& 0x7 == 0

/-! ### The decoder -/

/-- Why a command is refused by the decoder (R234, R279). -/
inductive DecodeError where
  /-- An offset R200 does not list (R201). -/
  | unmappedRegister
  /-- A write of `NSR`, `ISR` or `IMR` (R279). -/
  | readOnlyRegister
  /-- A read of `IER` or `IDR` (R279). -/
  | writeOnlyRegister
  /-- A reserved management encoding (R222). -/
  | manReserved
  /-- Bits above the 9 of a `BUS9` command are set. -/
  | notACommand
  /-- The bytes end before the command does (R227: every command has a fixed length). -/
  | truncated
  deriving DecidableEq, Repr, Inhabited

/-- A register operation by its command, with the data word of a write (R250, R254 to R279). -/
def decodeBus (cmd : BusCommand) (v : Word) : Except DecodeError Instr :=
  match regAt (cmd.extractLsb' 0 8), cmd.getLsbD 8 with
  | some .ncr, false => .ok .rdNcr
  | some .ncr, true => .ok (.wrNcr v)
  | some .ncfg, false => .ok .rdNcfg
  | some .ncfg, true => .ok (.wrNcfg v)
  | some .nsr, false => .ok .rdNsr
  | some .nsr, true => .error .readOnlyRegister
  | some .tsr, false => .ok .rdTsr
  | some .tsr, true => .ok (.wrTsr v)
  | some .rbqp, false => .ok .rdRbqp
  | some .rbqp, true => .ok (.wrRbqp v)
  | some .tbqp, false => .ok .rdTbqp
  | some .tbqp, true => .ok (.wrTbqp v)
  | some .rsr, false => .ok .rdRsr
  | some .rsr, true => .ok (.wrRsr v)
  | some .isr, false => .ok .rdIsr
  | some .isr, true => .error .readOnlyRegister
  | some .ier, false => .error .writeOnlyRegister
  | some .ier, true => .ok (.wrIer v)
  | some .idr, false => .error .writeOnlyRegister
  | some .idr, true => .ok (.wrIdr v)
  | some .imr, false => .ok .rdImr
  | some .imr, true => .error .readOnlyRegister
  | some .man, false => .ok .rdMan
  | some .man, true => .ok (.wrMan v)
  | some .sa1b, false => .ok .rdSa1b
  | some .sa1b, true => .ok (.wrSa1b v)
  | some .sa1t, false => .ok .rdSa1t
  | some .sa1t, true => .ok (.wrSa1t v)
  | some .usrio, false => .ok .rdUsrio
  | some .usrio, true => .ok (.wrUsrio v)
  | none, _ => .error .unmappedRegister

/-- The fields of a TX descriptor's word 1 (R217). -/
def txFields (w1 : Word) : TxFields where
  len := w1.extractLsb' 0 11
  resLow := w1.extractLsb' 11 4
  resHigh := w1.extractLsb' 16 11
  bex := w1.getLsbD 27
  und := w1.getLsbD 28
  rle := w1.getLsbD 29
  wrap := w1.getLsbD 30

/-- A TX descriptor form by its word 1 (R234, R300): `USED` decides before any other field is used. -/
def decodeTxd (w1 : Word) : Instr :=
  if w1.getLsbD 31 then .txdStop (w1.getLsbD 15) (txFields w1)
  else if w1.getLsbD 15 then .txdLast (txFields w1)
  else .txdBuf (txFields w1)

/-- An RX descriptor form by its word 0 (R234, R350). -/
def decodeRxd (w0 : Word) : Instr :=
  let f : RxFields := ⟨w0.extractLsb' 2 30, w0.getLsbD 1⟩
  if w0.getLsbD 0 then .rxdFull f else .rxdFree f

/-- The operand fields of a management word (R220). -/
def manFields (w : Word) : ManFields where
  phya := w.extractLsb' 23 5
  rega := w.extractLsb' 18 5
  data := w.extractLsb' 0 16

/-- A management frame by its word; a reserved encoding is refused (R222). -/
def decodeMan (w : Word) : Except DecodeError Instr :=
  if w.extractLsb' 30 2 == 1#2 && w.extractLsb' 16 2 == 2#2 then
    if w.extractLsb' 28 2 == 2#2 then .ok (.mdioRead (manFields w))
    else if w.extractLsb' 28 2 == 1#2 then .ok (.mdioWrite (manFields w))
    else .error .manReserved
  else .error .manReserved

/-- Reads one command of the format from bytes in memory order, and answers it with the bytes that follow it.
A `BUS9` command is stored as two bytes, its 9 bits the low bits of their little-endian value, and a write's data word
as the four bytes after them; each other command is one little-endian word. -/
def decode (fmt : Format) (bytes : List Byte) : Except DecodeError (Instr × List Byte) :=
  match fmt, bytes with
  | .bus9, b0 :: b1 :: rest =>
    if b1.extractLsb' 1 7 == 0 then
      let cmd : BusCommand := b1.extractLsb' 0 1 ++ b0
      if cmd.getLsbD 8 then
        match rest with
        | d0 :: d1 :: d2 :: d3 :: rest' => (decodeBus cmd (leWord d0 d1 d2 d3)).map (·, rest')
        | _ => .error .truncated
      else (decodeBus cmd 0).map (·, rest)
    else .error .notACommand
  | .txdW1, b0 :: b1 :: b2 :: b3 :: rest => .ok (decodeTxd (leWord b0 b1 b2 b3), rest)
  | .rxdW0, b0 :: b1 :: b2 :: b3 :: rest => .ok (decodeRxd (leWord b0 b1 b2 b3), rest)
  | .man32, b0 :: b1 :: b2 :: b3 :: rest => (decodeMan (leWord b0 b1 b2 b3)).map (·, rest)
  | _, _ => .error .truncated

/-! ### The encoder -/

/-- A TX descriptor's word 1 (R217). -/
def txWord (used last : Bool) (f : TxFields) : Word :=
  BitVec.ofBool used ++ BitVec.ofBool f.wrap ++ BitVec.ofBool f.rle ++ BitVec.ofBool f.und ++ BitVec.ofBool f.bex
    ++ f.resHigh ++ BitVec.ofBool last ++ f.resLow ++ f.len

/-- An RX descriptor's word 0 (R212). -/
def rxWord (own : Bool) (f : RxFields) : Word :=
  f.addr ++ BitVec.ofBool f.wrap ++ BitVec.ofBool own

/-- A management word: start `01`, opcode, PHY address, register address, turnaround `10`, data (R220). -/
def manFrame (rw : BitVec 2) (f : ManFields) : Word :=
  1#2 ++ rw ++ f.phya ++ f.rega ++ 2#2 ++ f.data

/-- The bytes of a register operation: the command in two bytes, then a write's data word. -/
def busBytes (cmd : BusCommand) (data : List Byte) : List Byte :=
  cmd.extractLsb' 0 8 :: (0#7 ++ cmd.extractLsb' 8 1) :: data

/-- The format a command is encoded in (R234). -/
def Instr.format : Instr → Format
  | .txdStop _ _ | .txdBuf _ | .txdLast _ => .txdW1
  | .rxdFree _ | .rxdFull _ => .rxdW0
  | .mdioRead _ | .mdioWrite _ => .man32
  | .rdNcr | .wrNcr _ | .rdNcfg | .wrNcfg _ | .rdNsr | .rdTsr | .wrTsr _ | .rdRbqp | .wrRbqp _ | .rdTbqp
  | .wrTbqp _ | .rdRsr | .wrRsr _ | .rdIsr | .wrIer _ | .wrIdr _ | .rdImr | .rdMan | .wrMan _ | .rdSa1b
  | .wrSa1b _ | .rdSa1t | .wrSa1t _ | .rdUsrio | .wrUsrio _ => .bus9

/-- The bytes of a command, in memory order. -/
def encode : Instr → List Byte
  | .rdNcr => busBytes (busCommand false .ncr) []
  | .wrNcr v => busBytes (busCommand true .ncr) (leBytes v)
  | .rdNcfg => busBytes (busCommand false .ncfg) []
  | .wrNcfg v => busBytes (busCommand true .ncfg) (leBytes v)
  | .rdNsr => busBytes (busCommand false .nsr) []
  | .rdTsr => busBytes (busCommand false .tsr) []
  | .wrTsr v => busBytes (busCommand true .tsr) (leBytes v)
  | .rdRbqp => busBytes (busCommand false .rbqp) []
  | .wrRbqp v => busBytes (busCommand true .rbqp) (leBytes v)
  | .rdTbqp => busBytes (busCommand false .tbqp) []
  | .wrTbqp v => busBytes (busCommand true .tbqp) (leBytes v)
  | .rdRsr => busBytes (busCommand false .rsr) []
  | .wrRsr v => busBytes (busCommand true .rsr) (leBytes v)
  | .rdIsr => busBytes (busCommand false .isr) []
  | .wrIer v => busBytes (busCommand true .ier) (leBytes v)
  | .wrIdr v => busBytes (busCommand true .idr) (leBytes v)
  | .rdImr => busBytes (busCommand false .imr) []
  | .rdMan => busBytes (busCommand false .man) []
  | .wrMan v => busBytes (busCommand true .man) (leBytes v)
  | .rdSa1b => busBytes (busCommand false .sa1b) []
  | .wrSa1b v => busBytes (busCommand true .sa1b) (leBytes v)
  | .rdSa1t => busBytes (busCommand false .sa1t) []
  | .wrSa1t v => busBytes (busCommand true .sa1t) (leBytes v)
  | .rdUsrio => busBytes (busCommand false .usrio) []
  | .wrUsrio v => busBytes (busCommand true .usrio) (leBytes v)
  | .txdStop last f => leBytes (txWord true last f)
  | .txdBuf f => leBytes (txWord false false f)
  | .txdLast f => leBytes (txWord false true f)
  | .rxdFree f => leBytes (rxWord false f)
  | .rxdFull f => leBytes (rxWord true f)
  | .mdioRead f => leBytes (manFrame 2#2 f)
  | .mdioWrite f => leBytes (manFrame 1#2 f)

/-! ### Words of the opcode table, without their format

A table row's word does not say which of the four formats it is in; in the machine the agent that fetches a command
knows. Here the number of bits the table fixes tells `RXD_W0` (one bit) from `BUS9` (nine bits) from the other two, and a
word that matches a `MAN32` row is read as one: as a TX word 1 it would be a hardware-owned descriptor with the reserved
bit 17 set, which R219 makes illegal. -/

/-- The format a table word of `nbits` bits is read in. -/
def tableFormat (nbits w : Nat) : Format :=
  let v : Word := BitVec.ofNat 32 w
  if nbits ≤ 8 then .rxdW0
  else if nbits ≤ 16 then .bus9
  else if v &&& 0xF0030000 == 0x60020000 || v &&& 0xF0030000 == 0x50020000 then .man32
  else .txdW1

/-- The bytes of a table word, the first word's least significant byte first, followed by zero bytes up to the longest
command (a register write, six bytes). -/
def tableBytes (nbits w : Nat) : List Byte :=
  (List.range 6).map fun k => if 8 * k < nbits then BitVec.ofNat 8 (w >>> (8 * k)) else 0

/-- The command the decoder reads from a word numbered as spec/opcode_table.json numbers its bits. -/
def decodeTableWord (nbits w : Nat) : Option Instr :=
  match decode (tableFormat nbits w) (tableBytes nbits w) with
  | .ok (i, _) => some i
  | .error _ => none

end Sys2Proof
end

