-- ==== Sys2Proof/Config.lean ====
section
/-!
DEFINITION. What an implementation fixes (00_scope.md R13: every OPEN parameter, held as plain data in State so that a
statement over all states is a statement over all configurations) and the free values: what a `draw()` of 00_scope.md R18
may answer, held for the coming step as plain data and redrawn after each step from an opaque constant.
-/

namespace Sys2Proof

/-! ### The parameters of R13 -/

/-- `LINE_MODE`. -/
inductive LineMode where
  | rmii | mii
  deriving DecidableEq, Repr, Inhabited

/-- A fixed speed and duplex, for `AUTONEG = FIXED(m)`. -/
inductive FixedMode where
  | full100 | half100 | full10 | half10
  deriving DecidableEq, Repr, Inhabited

/-- `AUTONEG`. -/
inductive Autoneg where
  | advertiseAll
  | fixed (m : FixedMode)
  deriving DecidableEq, Repr, Inhabited

/-- `TX_ERR_PTR`: where the TX pointer goes after a transmit error (42_tx_engine.md R311, R315). -/
inductive TxErrPtr where
  | resetToBase | hold
  deriving DecidableEq, Repr, Inhabited

/-- A range of admitted system memory (20_memory.md R151). -/
structure MemRange where
  base : Nat
  size : Nat
  deriving DecidableEq, Repr, Inhabited

/-- A station address, byte 0 first on the wire (30_encoding.md R224). -/
abbrev StationAddr := Vector Byte 6

/-- The configuration: the parameters of R13, and the admitted ranges of 20_memory.md R151 beyond the two descriptor
arrays and the two pools. `RX_BUF_SIZE` is no parameter: it is 128. -/
structure Config where
  emacBase : Word
  rxCount : Nat
  txCount : Nat
  txBufSize : Nat
  rxMaxFrame : Nat
  rxDescBase : Word
  txDescBase : Word
  rxPool : Word
  txPool : Word
  lineMode : LineMode
  autoneg : Autoneg
  mck : Nat
  phyAddr : PhyIndex
  phyId : Word
  usePhyIrq : Bool
  irqPriority : Nat
  txErrPtr : TxErrPtr
  stationAddrInit : StationAddr
  ranges : List MemRange
  deriving DecidableEq, Repr, Inhabited

/-- DESIGN CHOICE (log 4): the configuration `State.reset` holds, the common configuration of 95_test_vectors.md, with the
parameters that file leaves out. -/
def Config.common : Config where
  emacBase := 0x40000000
  rxCount := 4
  txCount := 2
  txBufSize := 64
  rxMaxFrame := 1536
  rxDescBase := 0x20000100
  txDescBase := 0x20000000
  rxPool := 0x20002000
  txPool := 0x20001000
  lineMode := .mii
  autoneg := .advertiseAll
  mck := 48000000
  phyAddr := 1
  phyId := 0x0181B8A0
  usePhyIrq := false
  irqPriority := 0
  txErrPtr := .resetToBase
  stationAddrInit := #v[0x11, 0x22, 0x33, 0x44, 0x55, 0x66]
  ranges := [⟨0, 0x100000000⟩]

/-! ### What a step may draw -/

/-- The agents of R11, and the environment's event `reset`, a platform reset of the peripheral (70_reset_and_hazards.md
R650). -/
inductive Agent where
  | txe | rxe | mdio | bus | hostTx | hostRx | hostIsr | phy | medium | intc | reset
  deriving DecidableEq, Repr, Inhabited

/-- The outcome of a transmitted frame (42_tx_engine.md R313). The medium never chooses `bex`. -/
inductive TxOutcome where
  | ok | okCol | und | rle | bex
  deriving DecidableEq, Repr, Inhabited

/-- A management operation a procedure or a collaborator performs (47_sw_phy_init.md R550, R551). -/
inductive PhyOp where
  | read (r : PhyIndex)
  | write (r : PhyIndex) (v : Half)
  deriving DecidableEq, Repr, Inhabited

/-- One access of the host's bus, of any address and width (20_memory.md R150, R160). -/
inductive BusAccess where
  | load (a : Word) (n : Nat)
  | store (a : Word) (bytes : List Byte)
  deriving DecidableEq, Repr, Inhabited

/-- What an idle host context may call. A length is a 32-bit operand (00_scope.md R19). -/
inductive Call where
  /-- One bus access of its own, outside every procedure (30_encoding.md R232). -/
  | access (a : BusAccess)
  /-- `send(frame, is_last)` (45_sw_transmit.md R452). A frame of 2^32 bytes or more is a point of log 24. -/
  | send (frame : List Byte) (isLast : Bool)
  /-- `input_length()` (46_sw_receive.md R500). -/
  | inputLength
  /-- `read(null, section_length, total_frame_length)` (46_sw_receive.md R510). -/
  | readNull (len total : Word)
  /-- `read(dest, section_length, total_frame_length)` (46_sw_receive.md R511). The place of `dest` is no operand
  (log 19). -/
  | read (len total : Word)
  /-- `wait_for_input(timeout)` (46_sw_receive.md R530). -/
  | waitForInput
  /-- `init()` (47_sw_phy_init.md R560). -/
  | init
  /-- `disable()` (47_sw_phy_init.md R562). -/
  | disable
  /-- `set_station_address(a)` (47_sw_phy_init.md R564). -/
  | setStationAddress (a : StationAddr)
  /-- `program_station_address()` (47_sw_phy_init.md R564, R565). -/
  | programStationAddress
  deriving DecidableEq, Repr, Inhabited

/-- Every answer the environment and the scheduler give in one step. At most one agent steps, and it uses only the
fields its rules name; each is unconstrained. -/
structure Draws where
  /-- The agent that takes the step (R12). -/
  agent : Agent
  /-- A drawn word: bit 1 is the MDIO pin of `RD NSR` (R258); all 32 bits are `RD MAN` while busy (R411) and `MAN` after a
  write frame (R414); the high half is `MAN[31:16]` after a read frame (R413). -/
  word : Word
  /-- `PHY.read(p, r)` (44_mdio.md R420), and the answer of `phy_setup_autonegotiation` (R424). -/
  phyAnswer : Half
  /-- The medium's outcome for a frame (R314). -/
  outcome : TxOutcome
  /-- The frame the medium offers (R352, R361). -/
  frame : List Byte
  /-- 128 drawn bytes: byte k is what byte k of a buffer's tail becomes (R359), and what byte k of a host read of a
  hardware-owned buffer returns (20_memory.md R164). -/
  tail : Vector Byte 128
  /-- What an idle host context calls, if anything. -/
  call : Option Call
  /-- The management operation a collaborator performs next, if any (44_mdio.md R424). -/
  collaborator : Option PhyOp
  /-- `waiter_needs_switch()` (60_exceptions.md R609). -/
  needsSwitch : Bool
  /-- `timeout_elapsed()` (46_sw_receive.md R530). -/
  timeout : Bool
  deriving DecidableEq, Repr, Inhabited

/-! ### The free values -/

/-- FREE VALUE (log 2): the draws of the step numbered `n`. It has no body, so no proof can know an answer. -/
opaque Config.freeDraws : Nat → Draws

/-- FREE VALUE (log 2): byte `k` of the step numbered `n`, for a host read of a hardware-owned buffer longer than
`Draws.tail`. -/
opaque Config.freeByte : Nat → Nat → Byte

/-- FREE VALUE (log 3): what the byte at an address holds before anything has written it (70_reset_and_hazards.md R652:
"Memory is not reset"). -/
opaque Config.powerOnByte : Nat → Byte

end Sys2Proof
end

