-- ==== Sys2Proof/Machine/State.lean ====
section
/-!
DEFINITION. The machine's state (10_state.md, 70_reset_and_hazards.md R651), as plain data; the fault and refusal reasons
(60_exceptions.md R622); the state after reset.
-/

namespace Sys2Proof.Machine

/-! ### Registers and engines -/

/-- The stored registers (10_state.md R51 to R63). `RBQP` and `TBQP` are the engines' pointers; `NSR` and the `TGO` bit of
`TSR` are computed; `IER` and `IDR` have no storage. -/
structure Regs where
  /-- `NCR`: bit 2 `RE`, bit 3 `TE`, bit 4 `MPE` (R51). `TSTART` is not stored. -/
  ncr : Word
  /-- `NCFG`: bit 0 `SPD`, bit 1 `FD`, bits 11:10 `CLK` (R52). -/
  ncfg : Word
  /-- The sticky bits of `TSR` (R54). -/
  tsr : Word
  /-- `RSR` (R57). -/
  rsr : Word
  /-- `ISR` (R58). -/
  isr : Word
  /-- The mask `IMR` returns (R60). -/
  imask : Word
  /-- `MAN` (R61). -/
  man : Word
  /-- `SA1B` (R62). -/
  sa1b : Word
  /-- `SA1T` (R62). -/
  sa1t : Word
  /-- `USRIO` (R63). -/
  usrio : Word
  deriving DecidableEq, Repr, Inhabited

/-- `tx_state` (R70). -/
inductive TxState where
  | idle | active
  deriving DecidableEq, Repr, Inhabited

/-- `tx_frame = some(first, bytes)` (R70). -/
structure TxFrame where
  /-- The address of the frame's first descriptor. -/
  first : Word
  /-- The bytes gathered so far. -/
  bytes : List Byte
  deriving DecidableEq, Repr, Inhabited

/-- The TX engine (R70, R71). -/
structure TxEngine where
  state : TxState
  base : Word
  ptr : Word
  frame : Option TxFrame
  deriving DecidableEq, Repr, Inhabited

/-- `rx_frame = (bytes, pos, first)` (R72). -/
structure RxFrame where
  bytes : List Byte
  pos : Nat
  first : Bool
  deriving DecidableEq, Repr, Inhabited

/-- `rx_state`, with the frame that is present only in `FRAME` (R72). -/
inductive RxState where
  | idle
  | frame (f : RxFrame)
  deriving DecidableEq, Repr, Inhabited

/-- The RX engine (R72). -/
structure RxEngine where
  state : RxState
  base : Word
  ptr : Word
  deriving DecidableEq, Repr, Inhabited

/-- The MDIO controller (R74). -/
structure MdioState where
  busy : Bool
  word : Word
  bit : Nat
  deriving DecidableEq, Repr, Inhabited

/-- System memory: the bytes written since reset, by address, strictly rising (`Memory.wf`). An unlisted address holds no
written byte, and reads as the free value `Config.powerOnByte` (log 3). -/
abbrev Memory := List Host.Cell

/-- The events of a run (00_scope.md R18). -/
inductive Event where
  | txFrame (bytes : List Byte) (outcome : TxOutcome)
  | rxOffered (bytes : List Byte)
  | mdioRead (phy reg : PhyIndex) (value : Half)
  | mdioWrite (phy reg : PhyIndex) (value : Half)
  | irq (level : Bool)
  deriving DecidableEq, Repr, Inhabited

/-! ### The host -/

/-- The software state of the reference procedures (10_state.md R85). -/
structure Software where
  txIndex : Nat
  txReclaim : Nat
  rxIndex : Nat
  rxOffset : Nat
  rxConsumed : Nat
  rxReady : Bool
  stationAddr : StationAddr
  deriving DecidableEq, Repr, Inhabited

/-- The operands and the 32-bit locals (00_scope.md R19) of a `send()` in progress (45_sw_transmit.md R453). DESIGN CHOICE
(log 24): R452 lets `frame` have any length, and `rem` is then its length modulo 2^32. -/
structure SendLocals where
  frame : List Byte
  off : Word
  rem : Word
  isLast : Bool
  deriving DecidableEq, Repr, Inhabited

/-- The 32-bit operands and the locals (00_scope.md R19) of a `read()` in progress (46_sw_receive.md R511). DESIGN CHOICE
(log 19): R511 calls `dest` a host memory region and gives it no place, so its bytes are held here and no system memory is
written. -/
structure ReadLocals where
  /-- `dest[0 .. got-1]`, so `got` is its length, and never more than `s`. -/
  dest : List Byte
  /-- `s`, the section length. -/
  len : Word
  total : Word
  deriving DecidableEq, Repr, Inhabited

/-- Where a host context stands: the step it takes next, with the locals it holds. One constructor is one line of a
procedure of files 45, 46, 47 and 60. A local that is a slot number is a number, as the cursors are: R13 keeps it below 2^29,
so it fits the 32 bits of R19. -/
inductive Point where
  /-- One bus access outside every procedure. -/
  | access (a : BusAccess)
  /-- `setup()` (R450). -/
  | setupTxWord0 (i : Nat)
  | setupTxWord1 (i : Nat)
  | setupRxWord1 (i : Nat)
  | setupRxWord0 (i : Nat)
  | setupCursors
  | setupRbqp
  | setupTbqp
  /-- `send()` (R453). -/
  | sendWait (l : SendLocals)
  | sendDelay (l : SendLocals)
  | sendCopy (l : SendLocals)
  | sendHandover (l : SendLocals)
  | sendReadNcr (l : SendLocals)
  | sendStart (l : SendLocals) (t : Word)
  /-- `tx_reclaim_proc()` (R470). -/
  | reclaimTest
  | reclaimLoad
  | reclaimMark (w : Word)
  /-- `input_length()` (R501). -/
  | lengthStatus
  | lengthSkipWord0
  | lengthSkipWord1 (w0 : Word)
  | lengthSkipReclaim (w0 : Word)
  | lengthWalkWord0 (j : Nat)
  | lengthWalkWord1 (j : Nat)
  | lengthDropLoad (j k : Nat) (w1 : Word)
  | lengthDropReclaim (j k : Nat) (w1 t : Word)
  | lengthAfterBna
  /-- `read()` (R510, R511). -/
  | readNull
  | readCheck (l : ReadLocals)
  | readLoad (l : ReadLocals)
  | readCopy (l : ReadLocals) (w0 : Word)
  | readReclaim (l : ReadLocals) (w0 : Word)
  /-- `bna_recovery()` (R520). -/
  | bnaReadNcr
  | bnaDisable (t : Word)
  | bnaReadBack
  | bnaLoad (i : Nat)
  | bnaReclaim (i : Nat) (w : Word)
  | bnaClear
  | bnaReadRsr
  | bnaRbqp
  | bnaIndex
  | bnaReadNcrAgain
  | bnaEnable (t : Word)
  /-- `wait_for_input()` (R530). -/
  | waitBlock
  | waitTake
  /-- `mdio_read()` and `mdio_write()` (R550, R551). -/
  | mdioReadNcr (op : PhyOp)
  | mdioEnable (op : PhyOp) (t : Word)
  | mdioMan (op : PhyOp)
  | mdioPoll (op : PhyOp)
  | mdioResult
  | mdioReadNcrAgain (m : Half)
  | mdioDisable (m : Half) (t : Word)
  /-- `probe_and_negotiate()` (R552). -/
  | probeId1
  | probeId2
  | probeCompare (id1 : Half)
  | probeAdvertise
  | probeControl
  | probeAutoneg
  | probeWriteBack
  | probeStatus
  | probeLink
  | probePartner
  | probeConfigure (v : Word)
  /-- A collaborator (R424, R566): any number of management operations, then its answer. `framed` says that it has
  performed one. -/
  | collaborator (framed : Bool)
  /-- `init()` (R560). -/
  | initHwReset
  | initNcr
  | initTsr
  | initRsr
  | initIdr
  | initIsr
  | initUsrio
  | initReadBack
  | initReadNcfg
  | initNcfg (t : Word)
  | initProbed
  | initRegister
  | initIer
  | initReadNcr
  | initEnable (t : Word)
  /-- `program_station_address()` (R565): `a := station_addr`, then the two writes of `a`. -/
  | stationStart
  | stationBottom (a : StationAddr)
  | stationTop (a : StationAddr)
  /-- `set_station_address()` (R564). -/
  | stationSet (a : StationAddr)
  /-- `disable()` (R562). -/
  | disableReadNcr
  | disableNcr (t : Word)
  | disableIdr
  /-- `handle_event()` (60_exceptions.md R607). -/
  | eventIsr
  | eventRsr (isr : Word)
  | eventWake (isr : Word)
  | eventClearRec (isr : Word) (sw : Bool)
  | eventReadRsr (isr : Word) (sw : Bool)
  | eventTsr (isr : Word) (sw : Bool)
  | eventClearComp (sw : Bool)
  | eventReadTsr (sw : Bool)
  deriving DecidableEq, Repr, Inhabited

/-- A host context (00_scope.md R11): its control stack, the step it takes next on top and the callers below; and what its
last procedure or bus access returned. It is idle when the stack is empty. -/
structure Context where
  stack : List Point
  /-- The last returned value: a length, a 16-bit PHY value, 1 for SUCCESS or `true`, 0 for FAILURE or `false`. -/
  ret : Word
  /-- The bytes the last `read()` or bus load returned. -/
  data : List Byte
  deriving DecidableEq, Repr, Inhabited

/-- The three host contexts (R11). -/
inductive ContextId where
  | tx | rx | isr
  deriving DecidableEq, Repr, Inhabited

/-! ### The state -/

/-- The machine. -/
structure State where
  /-- The configuration (R13); no step changes it. -/
  cfg : Config
  regs : Regs
  tx : TxEngine
  rx : RxEngine
  mdio : MdioState
  /-- The posted-write FIFO, oldest first (R75). -/
  pw : List (Reg × Word)
  mem : Memory
  sw : Software
  hostTx : Context
  hostRx : Context
  hostIsr : Context
  /-- `handle_event` is registered with the interrupt controller (60_exceptions.md R616). -/
  handler : Bool
  /-- A host context has taken its first action, which is a call of `init()` (70_reset_and_hazards.md R653). -/
  started : Bool
  /-- MODEL'S OWN: the value the last register read returned (30_encoding.md R202). -/
  rdata : Word
  /-- The history, oldest first (R18). -/
  events : List Event
  /-- MODEL'S OWN: the draws of the coming step (log 2). -/
  draws : Draws
  /-- MODEL'S OWN: how many times the draws have been redrawn (log 2). -/
  drawCount : Nat
  deriving DecidableEq, Repr, Inhabited

/-! ### How a step stops -/

/-- The fault reasons of 60_exceptions.md R622. Each is a verdict, not hardware state (R601). All are safe: the machine
stops where the chip goes on in a way the spec does not give. -/
inductive Fault where
  /-- An engine's descriptor or buffer address is misaligned or not admitted (20_memory.md R157). Raised by the TX and RX
  descriptor forms. Safe. -/
  | misalignedDma
  /-- `WR RBQP` or `WR TBQP` of a value that is not 8-aligned (R158). Safe. -/
  | misalignedQueue
  /-- An engine pointer would pass `0xFFFF_FFF8` (R159). Raised by the TX and RX descriptor forms. DESIGN CHOICE (log 16):
  the step then performs nothing else, so the fault carries no state. Safe. -/
  | queueWrapOverflow
  /-- A host store into a hardware-owned RX descriptor or buffer while reception can run (R165). Raised by host memory
  stores; `performed` is the state with the store made. Safe. -/
  | rxOwnershipViolation (performed : State)
  /-- A host store into word 0 or the buffer of a hardware-owned TX descriptor while the engine is active (R166). Raised by
  host memory stores; `performed` is the state with the store made. Safe. -/
  | txOwnershipViolation (performed : State)
  /-- `WR RBQP` while reception can run (41_host_registers.md R262). Safe. -/
  | rbqpWriteWhileReceiving
  /-- `WR TBQP` while the TX engine is active (R264). Safe. -/
  | tbqpWriteWhileTransmitting
  /-- `WR MAN` while a management frame is in progress (44_mdio.md R403). Safe. -/
  | mdioWriteWhileBusy
  /-- `WR NCR` clearing `MPE` while a management frame is in progress (R403). Safe. -/
  | mdioDisabledWhileBusy
  /-- `WR NCFG` changing `CLK` while a management frame is in progress (R403). Safe. -/
  | mdioClockChangedWhileBusy
  /-- `read()` beyond the frame or over a hardware-owned buffer (46_sw_receive.md R512). Raised by the host contexts.
  Safe. -/
  | readPrecondition
  deriving DecidableEq, Repr

/-- The refusal reasons of 60_exceptions.md R622. All are safe: the spec gives the command no meaning. -/
inductive Refusal where
  /-- An instruction with no meaning yet. Raised by no arm of exec. Safe. -/
  | notModelled (mnemonic : String)
  /-- An offset 30_encoding.md R200 does not list (R201). Raised at issue. Safe. -/
  | unmappedRegister
  /-- A write of `NSR`, `ISR` or `IMR` (R279). Raised at issue. Safe. -/
  | readOnlyRegister
  /-- A read of `IER` or `IDR` (R279). Raised at issue. Safe. -/
  | writeOnlyRegister
  /-- A write that sets a reserved bit (10_state.md R64). Raised when the write is performed. Safe. -/
  | reservedBit
  /-- A register access that is not an aligned 32-bit one (20_memory.md R160). Safe. -/
  | registerWidth
  /-- A host access to a descriptor word that is not an aligned 32-bit one (R156, R160). Safe. -/
  | descriptorWidth
  /-- A hardware-owned TX descriptor with `LEN = 0` or a reserved bit (30_encoding.md R219). Safe. -/
  | txDescriptorReserved
  /-- `WR MAN` of a reserved encoding with `MPE = 1` (R222). Safe. -/
  | manReserved
  /-- A configuration outside 00_scope.md R13 and R15. Raised by step. Safe. -/
  | configuration
  deriving DecidableEq, Repr

/-! ### Reset -/

/-- The reset values of the stored registers (70_reset_and_hazards.md R651). -/
def Regs.reset : Regs where
  ncr := 0
  ncfg := 0x800
  tsr := 0
  rsr := 0
  isr := 0
  imask := 0xCFF
  man := 0
  sa1b := 0
  sa1t := 0
  usrio := 0

/-- The TX engine after reset (R651). -/
def TxEngine.reset : TxEngine := { state := .idle, base := 0, ptr := 0, frame := none }

/-- The RX engine after reset (R651). -/
def RxEngine.reset : RxEngine := { state := .idle, base := 0, ptr := 0 }

/-- The MDIO controller after reset (R651). -/
def MdioState.reset : MdioState := { busy := false, word := 0, bit := 0 }

/-- An idle context. DESIGN CHOICE (log 5): nothing returned yet reads as 0. -/
def Context.idle : Context where
  stack := []
  ret := 0
  data := []

/-- DESIGN CHOICE (log 2): the draws `State.reset` holds for the first step, in which the PHY agent, which changes no EMAC
state, moves. -/
def Draws.initial : Draws where
  agent := .phy
  word := 0
  phyAnswer := 0
  outcome := .ok
  frame := []
  tail := Vector.replicate 128 0
  call := none
  collaborator := none
  needsSwitch := false
  timeout := false

/-- The state after a power-on (R650 to R653) for a configuration and the first step's draws: the state a run begins in. A
platform reset in a run is `platformReset`. DESIGN CHOICE (log 5): the software state, which R652 leaves undefined until
`setup()`, is 0. -/
def State.resetWith (c : Config) (d : Draws) : State where
  cfg := c
  regs := Regs.reset
  tx := TxEngine.reset
  rx := RxEngine.reset
  mdio := MdioState.reset
  pw := []
  mem := []
  sw := { txIndex := 0, txReclaim := 0, rxIndex := 0, rxOffset := 0, rxConsumed := 0, rxReady := false,
          stationAddr := c.stationAddrInit }
  hostTx := Context.idle
  hostRx := Context.idle
  hostIsr := Context.idle
  handler := false
  started := false
  rdata := 0
  events := []
  draws := d
  drawCount := 0

/-- The state right after reset, in the common configuration (log 4). -/
def State.reset : State :=
  State.resetWith Config.common Draws.initial

end Sys2Proof.Machine
end

