-- ==== Sys2Proof/Machine/Operands.lean ====
section
/-!
DEFINITION. Operand forms: the fields of the stored registers, buffer addresses and lengths, the words the engines and the
procedures write, the tables of 47_sw_phy_init.md.
-/

namespace Sys2Proof.Machine

/-! ### Register fields -/

/-- `NCR.RE` (R51). -/
def rxEnabled (s : State) : Bool := s.regs.ncr.getLsbD 2

/-- `NCR.TE` (R51). -/
def txEnabled (s : State) : Bool := s.regs.ncr.getLsbD 3

/-- `NCR.MPE` (R51). -/
def mgmtEnabled (s : State) : Bool := s.regs.ncr.getLsbD 4

/-- `NCFG.FD` (R52). -/
def fullDuplex (s : State) : Bool := s.regs.ncfg.getLsbD 1

/-- The `CLK` field of an `NCFG` value (R52). -/
def clkField (v : Word) : BitVec 2 := v.extractLsb' 10 2

/-! ### The values register reads return; reserved bits read as 0 (R64) -/

/-- `RD NCR` (R254): `RE`, `TE` and `MPE`; `TSTART` reads 0. -/
def ncrValue (s : State) : Word := s.regs.ncr &&& 0x1C

/-- `RD NCFG` (R256). -/
def ncfgValue (s : State) : Word := s.regs.ncfg &&& 0xC03

/-- `RD NSR` (R258): bit 1 is a fresh draw, bit 2 is `not mdio_busy`. -/
def nsrValue (s : State) : Word :=
  0#29 ++ BitVec.ofBool (!s.mdio.busy) ++ BitVec.ofBool (s.draws.word.getLsbD 1) ++ 0#1

/-- `RD TSR` (R259): the sticky bits, with `TGO` (bit 3) reading `tx_state = ACTIVE`. -/
def tsrValue (s : State) : Word :=
  (s.regs.tsr &&& 0x77) ||| (if s.tx.state = .active then 0x8 else 0)

/-- `RD RBQP` (R261). -/
def rbqpValue (s : State) : Word := s.rx.ptr

/-- `RD TBQP` (R263). -/
def tbqpValue (s : State) : Word := s.tx.ptr

/-- `RD RSR` (R265). -/
def rsrValue (s : State) : Word := s.regs.rsr &&& 0x7

/-- `RD ISR` (R267). -/
def isrValue (s : State) : Word := s.regs.isr &&& 0xCFF

/-- `RD IMR` (R270). -/
def imrValue (s : State) : Word := s.regs.imask &&& 0xCFF

/-- `RD MAN` (R271): 32 drawn bits while a frame is in progress (R411). -/
def manValue (s : State) : Word := if s.mdio.busy then s.draws.word else s.regs.man

/-- `RD SA1B` (R273). -/
def sa1bValue (s : State) : Word := s.regs.sa1b

/-- `RD SA1T` (R275). -/
def sa1tValue (s : State) : Word := s.regs.sa1t &&& 0xFFFF

/-- `RD USRIO` (R277). -/
def usrioValue (s : State) : Word := s.regs.usrio &&& 0x3

/-! ### Descriptors -/

/-- `desc_rx(i)` (R17). -/
def descRx (c : Config) (i : Nat) : Word := c.rxDescBase + BitVec.ofNat 32 (8 * i)

/-- `desc_tx(i)` (R17). -/
def descTx (c : Config) (i : Nat) : Word := c.txDescBase + BitVec.ofNat 32 (8 * i)

/-- The RX buffer bound to descriptor i (R80). -/
def rxBufferAddr (c : Config) (i : Nat) : Word := c.rxPool + BitVec.ofNat 32 (128 * i)

/-- The TX buffer bound to descriptor i (R81). -/
def txBufferAddr (c : Config) (i : Nat) : Word := c.txPool + BitVec.ofNat 32 (c.txBufSize * i)

/-- `next(i, N)` (R17). -/
def nextIndex (i n : Nat) : Nat := (i + 1) % n

/-- `RX_BUF_SIZE` (R13, R80). -/
def rxBufSize : Nat := 128

/-- The buffer address of an RX descriptor's fields (R214). -/
def rxBufferOf (f : RxFields) : Word := f.addr ++ 0#2

/-- The word 0 an RX descriptor gets when its buffer has been filled: `w0 | 1` (R356). -/
def rxFilledWord (f : RxFields) : Word := rxWord true f

/-- Word 1 of a filled RX descriptor (R213, R356). -/
def rxStatusWord (total : Nat) (first last : Bool) : Word :=
  (if last then BitVec.ofNat 32 total else 0) ||| ((if first then 1#32 else 0#32) <<< 14)
    ||| ((if last then 1#32 else 0#32) <<< 15)

/-- The word 1 `send()` writes for a chunk of n bytes (R218, R455). -/
def sendWord (n : Nat) (last wrap : Bool) : Word :=
  BitVec.ofNat 32 n ||| ((if last then 1#32 else 0#32) <<< 15) ||| ((if wrap then 1#32 else 0#32) <<< 30)

/-- The `LEN` of an RX descriptor's word 1 (R214). -/
def rxLength (w1 : Word) : Word := w1 &&& 0xFFF

/-! ### Management words -/

/-- `man_word(rw, phy, reg, data)` (R221) of an operation at a PHY address. -/
def manWord (phy : PhyIndex) : PhyOp → Word
  | .read r => manFrame 2#2 ⟨phy, r, 0⟩
  | .write r v => manFrame 1#2 ⟨phy, r, v⟩

/-! ### The tables of 47_sw_phy_init.md -/

/-- `advertise_mask(AUTONEG)` (R554). -/
def advertiseMask : Autoneg → Half
  | .advertiseAll => 0x01E1
  | .fixed .full100 => 0x0101
  | .fixed .half100 => 0x0081
  | .fixed .full10 => 0x0041
  | .fixed .half10 => 0x0021

/-- `resolve(x)` (R558), as the `NCFG` bits `SPD | FD << 1`. -/
def resolveBits (x : Half) : Word :=
  if x &&& 0x0100 ≠ 0 then 0x3
  else if x &&& 0x0080 ≠ 0 then 0x1
  else if x &&& 0x0040 ≠ 0 then 0x2
  else 0x0

/-- `clk_div(MCK)` (R563); above 160 MHz there is none. -/
def clkDiv (mck : Nat) : Option (BitVec 2) :=
  if mck ≤ 20000000 then some 0
  else if mck ≤ 40000000 then some 1
  else if mck ≤ 80000000 then some 2
  else if mck ≤ 160000000 then some 3
  else none

/-- `SA1B` for a station address (R224). -/
def stationBottomWord (a : StationAddr) : Word := a[3] ++ a[2] ++ a[1] ++ a[0]

/-- `SA1T` for a station address (R224). -/
def stationTopWord (a : StationAddr) : Word := 0#16 ++ a[5] ++ a[4]

/-- `USRIO` for a line mode, with `CLKEN = 1` (R225). -/
def usrioWord : LineMode → Word
  | .rmii => 0x3
  | .mii => 0x2

end Sys2Proof.Machine
end

