-- ==== Sys2Proof/Machine/Flags.lean ====
section
/-!
DEFINITION. The status flags and interrupt causes (10_state.md R54, R57, R58; 60_exceptions.md R600), how they are set and
cleared, and the interrupt line (R603).
-/

namespace Sys2Proof.Machine

/-! ### Bit masks -/

/-- `TSR.UBR` (R54). -/
def tsrUbr : Word := 0x01
/-- `TSR.COL` (R54). -/
def tsrCol : Word := 0x02
/-- `TSR.RLES` (R54). -/
def tsrRles : Word := 0x04
/-- `TSR.BEX` (R54). -/
def tsrBex : Word := 0x10
/-- `TSR.COMP` (R54). -/
def tsrComp : Word := 0x20
/-- `TSR.UND` (R54). -/
def tsrUnd : Word := 0x40
/-- The write-one-to-clear bits of `TSR` (R260). -/
def tsrSticky : Word := 0x77

/-- `RSR.BNA` (R57). -/
def rsrBna : Word := 0x1
/-- `RSR.REC` (R57). -/
def rsrRec : Word := 0x2
/-- `RSR.OVR` (R57). -/
def rsrOvr : Word := 0x4

/-- `ISR.MFD` (R58, R600). -/
def isrMfd : Word := 0x001
/-- `ISR.RCOMP`. -/
def isrRcomp : Word := 0x002
/-- `ISR.RXUBR`. -/
def isrRxubr : Word := 0x004
/-- `ISR.TXUBR`. -/
def isrTxubr : Word := 0x008
/-- `ISR.TUND`. -/
def isrTund : Word := 0x010
/-- `ISR.RLE`. -/
def isrRle : Word := 0x020
/-- `ISR.TXERR`. -/
def isrTxerr : Word := 0x040
/-- `ISR.TCOMP`. -/
def isrTcomp : Word := 0x080
/-- `ISR.ROVR`. -/
def isrRovr : Word := 0x400
/-- `INT_IMPL`, the implemented causes (R58). -/
def intImpl : Word := 0xCFF

/-! ### Setting and clearing -/

/-- Sets `TSR` bits (R54: sticky until the host clears them). -/
def setTsr (s : State) (m : Word) : State := { s with regs := { s.regs with tsr := s.regs.tsr ||| m } }

/-- Sets `RSR` bits (R57). -/
def setRsr (s : State) (m : Word) : State := { s with regs := { s.regs with rsr := s.regs.rsr ||| m } }

/-- Records interrupt causes in `ISR`, whatever the mask says (R58). -/
def raise (s : State) (m : Word) : State := { s with regs := { s.regs with isr := s.regs.isr ||| m } }

/-- Write one to clear: the bits of `mask` that are 1 in `v` (R260, R266). -/
def writeOneToClear (old v mask : Word) : Word := old &&& ~~~(v &&& mask)

/-! ### The interrupt line -/

/-- `irq = ((ISR & ~imask & INT_IMPL) != 0)` (R603). -/
def irqLine (s : State) : Bool := s.regs.isr &&& ~~~s.regs.imask &&& intImpl != 0

/-! ### What each transmit outcome records (42_tx_engine.md R311, R312) -/

/-- The word-1 bits written into the frame's first descriptor. -/
def outcomeDescBits : TxOutcome → Word
  | .ok => 0x80000000
  | .okCol => 0x80000000
  | .und => 0x90000000
  | .rle => 0xA0000000
  | .bex => 0x88000000

/-- The `TSR` bits set. -/
def outcomeTsr : TxOutcome → Word
  | .ok => tsrComp
  | .okCol => tsrComp ||| tsrCol
  | .und => tsrUnd
  | .rle => tsrRles
  | .bex => tsrBex

/-- The `ISR` bits set. -/
def outcomeIsr : TxOutcome → Word
  | .ok => isrTcomp
  | .okCol => isrTcomp
  | .und => isrTund
  | .rle => isrRle
  | .bex => isrTxerr

/-- The outcome is a delivery: the engine goes on with the next descriptor (R312, R313). -/
def delivered : TxOutcome → Bool
  | .ok => true
  | .okCol => true
  | .und => false
  | .rle => false
  | .bex => false

/-- The medium's outcome, a draw from the set R314 allows: `OK` or `UND` in full duplex; `OK`, `OK_COL`, `UND` or `RLE` in
half duplex. A draw outside the set stands for `OK`. -/
def mediumOutcome (fd : Bool) : TxOutcome → TxOutcome
  | .ok => .ok
  | .okCol => if fd then .ok else .okCol
  | .und => .und
  | .rle => if fd then .ok else .rle
  | .bex => .ok

end Sys2Proof.Machine
end

