-- ==== Sys2Proof/Machine/Ops.lean ====
section
/-!
DEFINITION. The named operations the meanings are written over: memory, DMA admission, the configuration's constraints,
pointer advance, events, the start and stop of the engines, interrupt entry and return, and the fetch of each engine's command.
-/

namespace Sys2Proof.Machine

/-- Answers of a step or of a part of one. -/
abbrev Result (α : Type) := Host.Outcome α Fault Refusal

/-- Goes on with `k` where `o` answers a value; a fault or a refusal stays. -/
def andThen {α β : Type} (o : Result α) (k : α → Result β) : Result β :=
  match o with
  | .next a => k a
  | .fault r => .fault r
  | .refused r => .refused r

/-! ### Memory (20_memory.md R152 to R155) -/

/-- The canonical form: addresses strictly rise, and each is below 2^32 (R150). -/
abbrev Memory.wf (m : Memory) : Prop :=
  m.Pairwise (fun x y => x.1 < y.1) ∧ ∀ c ∈ m, c.1 < 4294967296

/-- The byte written at an address, if any has been. -/
def lookup : Memory → Nat → Option Byte
  | [], _ => none
  | (b, v) :: m, a => if b = a then some v else lookup m a

/-- Writes one byte, keeping the list sorted. -/
def insertByte : Memory → Nat → Byte → Memory
  | [], a, v => [(a, v)]
  | (b, w) :: m, a, v =>
    if a < b then (a, v) :: (b, w) :: m
    else if a = b then (a, v) :: m
    else (b, w) :: insertByte m a v

/-- What an address reads as: the byte written there, or the free value of R652 (log 3). -/
def readByte (m : Memory) (a : Word) : Byte := (lookup m a.toNat).getD (Config.powerOnByte a.toNat)

/-- `MemRead(a, n)` as a list of bytes (R153); address arithmetic is modulo 2^32 (R16). -/
def readBytes (m : Memory) (a : Word) (n : Nat) : List Byte :=
  (List.range n).map fun k => readByte m (a + BitVec.ofNat 32 k)

/-- `MemRead(a, 4)`, the little-endian word (R153). -/
def readWord (m : Memory) (a : Word) : Word :=
  leWord (readByte m a) (readByte m (a + 1)) (readByte m (a + 2)) (readByte m (a + 3))

/-- Writes one byte. -/
def writeByte (m : Memory) (a : Word) (v : Byte) : Memory := insertByte m a.toNat v

/-- `MemWrite(a, n, bs)` (R155). -/
def writeBytes (m : Memory) (a : Word) : List Byte → Memory
  | [] => m
  | b :: bs => writeBytes (writeByte m a b) (a + 1) bs

/-- `MemWrite(a, 4, v)` (R155). -/
def writeWord (m : Memory) (a : Word) (v : Word) : Memory := writeBytes m a (leBytes v)

/-! ### Address spans and admission (20_memory.md R150, R151, R157) -/

/-- Address `x` lies in the `n` bytes from `base` on, modulo 2^32. -/
def inSpan (x base : Word) (n : Nat) : Bool := (x - base).toNat < n

/-- Some byte of the `n` bytes from `a` on lies in the `len` bytes from `base` on. -/
def touches (a : Word) (n : Nat) (base : Word) (len : Nat) : Bool :=
  (List.range n).any fun k => inSpan (a + BitVec.ofNat 32 k) base len

/-- The size of the register window in bytes (R150). -/
def windowSize : Nat := 256

/-- The two descriptor arrays and the two pools, which the admitted ranges include (R151). -/
def ringRanges (c : Config) : List MemRange :=
  [⟨c.rxDescBase.toNat, 8 * c.rxCount⟩, ⟨c.txDescBase.toNat, 8 * c.txCount⟩,
   ⟨c.rxPool.toNat, 128 * c.rxCount⟩, ⟨c.txPool.toNat, c.txBufSize * c.txCount⟩]

/-- `a` lies in a range. -/
def rangeHolds (r : MemRange) (a : Nat) : Bool := r.base ≤ a && a < r.base + r.size

/-- The launch memory admits a DMA access to byte `a`: it is in the address space, not in the register window (which only
host register operations reach, R150), and in an admitted range (R151; log 7). -/
def admits (c : Config) (a : Nat) : Bool :=
  a < 4294967296 && !(rangeHolds ⟨c.emacBase.toNat, windowSize⟩ a)
    && (ringRanges c ++ c.ranges).any fun r => rangeHolds r a

/-- Every byte of `[a, a + n)` is admitted (R306, R355). -/
def admitsRange (c : Config) (a : Word) (n : Nat) : Bool :=
  (List.range n).all fun k => admits c (a.toNat + k)

/-- A descriptor may be read or written by an engine: it is 8-aligned (R157, D6) and both its words are admitted. -/
def descriptorOk (c : Config) (d : Word) : Bool := d &&& 0x7 == 0 && admitsRange c d 8

/-! ### The configuration's constraints (00_scope.md R13, R15) -/

/-- Two ranges do not overlap. -/
def rangesDisjoint (r q : MemRange) : Bool := r.base + r.size ≤ q.base || q.base + q.size ≤ r.base

/-- No two ranges of a list overlap. -/
def allDisjoint : List MemRange → Bool
  | [] => true
  | r :: rs => rs.all (fun q => rangesDisjoint r q) && allDisjoint rs

/-- Every range of R13 and every constraint of R15. DESIGN CHOICE (log 4): R15 (3) says that no ring, an array of
descriptors, crosses address 2^32; the model refuses a buffer pool that crosses it too. -/
def configChecks (c : Config) : List Bool :=
  [1 ≤ c.rxCount, c.rxCount ≤ 536870912, 1 ≤ c.txCount, c.txCount ≤ 536870912,
   4 ≤ c.txBufSize, c.txBufSize ≤ 2044, c.txBufSize % 4 == 0,
   1 ≤ c.rxMaxFrame, c.rxMaxFrame ≤ 4095,
   1 ≤ c.mck, (clkDiv c.mck).isSome,
   c.emacBase &&& 0xFF == 0, c.rxDescBase &&& 0x7 == 0, c.txDescBase &&& 0x7 == 0,
   c.rxPool &&& 0x3 == 0, c.txPool &&& 0x3 == 0,
   allDisjoint (⟨c.emacBase.toNat, windowSize⟩ :: ringRanges c),
   (ringRanges c).all fun r => r.base + r.size ≤ 4294967296]

/-- The configuration meets all of them. -/
def configOk (c : Config) : Bool := (configChecks c).all fun b => b

/-! ### Pointers and events -/

/-- The pointer after a descriptor (R71, R305, R357): the base after `WRAP`, else the next descriptor; none past
`0xFFFF_FFF8` (R159). -/
def advance (base ptr : Word) (wrap : Bool) : Option Word :=
  if wrap then some base else if ptr = 0xFFFFFFF8 then none else some (ptr + 8)

/-- `emit E` (R18). -/
def emit (s : State) (e : Event) : State := { s with events := s.events ++ [e] }

/-! ### Starting and stopping the engines -/

/-- Transmit start (42_tx_engine.md R301). -/
def txStart (s : State) : State :=
  if txEnabled s && s.tx.state = .idle then { s with tx := { s.tx with state := .active, frame := none } } else s

/-- Transmission off (R302). -/
def txOff (s : State) : State := { s with tx := { s.tx with state := .idle, frame := none, ptr := s.tx.base } }

/-- Reception off (43_rx_engine.md R362). -/
def rxOff (s : State) : State := { s with rx := { s.rx with state := .idle } }

/-- A platform reset of the peripheral (70_reset_and_hazards.md R650): the state of the EMAC is that of R651. Memory is not
reset (R652), and the host runs on (DESIGN CHOICE, log 15). -/
def platformReset (s : State) : State :=
  { s with regs := Regs.reset, tx := TxEngine.reset, rx := RxEngine.reset, mdio := MdioState.reset, pw := [] }

/-- A management frame starts (44_mdio.md R402). -/
def mdioStart (s : State) (v : Word) : State :=
  { s with regs := { s.regs with man := v }, mdio := { busy := true, word := v, bit := 0 } }

/-! ### Interrupt entry and return (60_exceptions.md R610, R611)

The EMAC takes no trap and entry changes no EMAC state: the interrupt controller starts `HOST_ISR` at the first line of
`handle_event()`, and the return resumes the preempted context where it stood. -/

/-- Control stands inside a critical section: its first step has been taken and its last has not (R617). -/
def insideCritical : Point → Bool
  | .sendHandover _ => true
  | .sendReadNcr _ => true
  | .sendStart _ _ => true
  | .bnaDisable _ => true
  | .bnaEnable _ => true
  | .mdioEnable _ _ => true
  | .mdioDisable _ _ => true
  | .initEnable _ => true
  | .disableNcr _ => true
  | _ => false

/-- The step enters a critical section (R617). -/
def entersCritical : Point → Bool
  | .sendCopy _ => true
  | .bnaReadNcr => true
  | .bnaReadNcrAgain => true
  | .waitTake => true
  | .mdioReadNcr _ => true
  | .mdioReadNcrAgain _ => true
  | .initReadNcr => true
  | .disableReadNcr => true
  | _ => false

/-- The context is inside a critical section. -/
def inCritical (x : Context) : Bool :=
  match x.stack with
  | p :: _ => insideCritical p
  | [] => false

/-- The context is idle. -/
def isIdle (x : Context) : Bool := x.stack.isEmpty

/-- `INTC` may start `HOST_ISR` (R610). -/
def interruptEnabled (s : State) : Bool :=
  irqLine s && s.handler && !inCritical s.hostTx && !inCritical s.hostRx && isIdle s.hostIsr

/-- Interrupt entry: `HOST_ISR` begins at the first line of `handle_event()` (R610). -/
def enterInterrupt (s : State) : State :=
  { s with hostIsr := { s.hostIsr with stack := [.eventIsr] } }

/-- Return from `handle_event()` (R611): `HOST_ISR` is idle, so the preempted context runs on. The returned value is
`switch_required` (R609), which no rule acts on. -/
def returnFromInterrupt (s : State) (switchRequired : Word) : State :=
  { s with hostIsr := { s.hostIsr with stack := [], ret := switchRequired } }

/-! ### The fetch of each engine's command -/

/-- The TX engine reads word 1 of the descriptor at `tx_ptr` (R304 step 1). -/
def txFetch (s : State) : Result Word :=
  if s.tx.ptr &&& 0x7 == 0 && admitsRange s.cfg (s.tx.ptr + 4) 4 then .next (readWord s.mem (s.tx.ptr + 4))
  else .fault .misalignedDma

/-- The RX engine reads word 0 of the descriptor at `rx_ptr` (R354 step 1). -/
def rxFetch (s : State) : Result Word :=
  if s.rx.ptr &&& 0x7 == 0 && admitsRange s.cfg s.rx.ptr 4 then .next (readWord s.mem s.rx.ptr)
  else .fault .misalignedDma

end Sys2Proof.Machine
end

