-- ==== Sys2Proof/Machine/HostRegisters.lean ====
section
/-!
DEFINITION. The 25 register operations (41_host_registers.md R254 to R278): what a read returns, and what a write does
when it is performed (R252). When an operation is issued, and when a read must wait, is HostBus.lean.
-/

namespace Sys2Proof.Machine

/-- A register read returns a value (R251). -/
def returnRead (s : State) (v : Word) : Result State := .next { s with rdata := v }

/-- A register write is performed only if it sets no reserved bit (R64). -/
def ifAccepted (r : Reg) (v : Word) (k : Result State) : Result State :=
  if Reg.accepts r v then k else .refused .reservedBit

/-- A queue pointer may only be written with an 8-aligned value (20_memory.md R158). -/
def ifQueueAligned (v : Word) (k : Result State) : Result State :=
  if queueAligned v then k else .fault .misalignedQueue

/-! ### `NCR` -/

/-- `RD_NCR` (R254). -/
def execRdNcr (s : State) : Result State := returnRead s (ncrValue s)

/-- The effect of a `WR_NCR` that no check stops (R255 steps 3 to 6): the enables, reception off, transmission off,
transmit start, in that order. -/
def writeNcr (v : Word) (s : State) : State :=
  let s1 := { s with regs := { s.regs with ncr := v &&& 0x1C } }
  let s2 := if rxEnabled s && !v.getLsbD 2 then rxOff s1 else s1
  let s3 := if txEnabled s && !v.getLsbD 3 then txOff s2 else s2
  if v.getLsbD 9 then txStart s3 else s3

/-- `WR_NCR` (R255). -/
def execWrNcr (v : Word) (s : State) : Result State :=
  ifAccepted .ncr v
    (if mgmtEnabled s && !v.getLsbD 4 && s.mdio.busy then .fault .mdioDisabledWhileBusy
     else .next (writeNcr v s))

/-! ### `NCFG`, `NSR` -/

/-- `RD_NCFG` (R256). -/
def execRdNcfg (s : State) : Result State := returnRead s (ncfgValue s)

/-- `WR_NCFG` (R257). -/
def execWrNcfg (v : Word) (s : State) : Result State :=
  ifAccepted .ncfg v
    (if s.mdio.busy && clkField v != clkField s.regs.ncfg then .fault .mdioClockChangedWhileBusy
     else .next { s with regs := { s.regs with ncfg := v } })

/-- `RD_NSR` (R258). -/
def execRdNsr (s : State) : Result State := returnRead s (nsrValue s)

/-! ### `TSR`, `RSR`: write one to clear -/

/-- `RD_TSR` (R259). -/
def execRdTsr (s : State) : Result State := returnRead s (tsrValue s)

/-- `WR_TSR` (R260): bit 3, `TGO`, is ignored. -/
def execWrTsr (v : Word) (s : State) : Result State :=
  ifAccepted .tsr v (.next { s with regs := { s.regs with tsr := writeOneToClear s.regs.tsr v tsrSticky } })

/-- `RD_RSR` (R265). -/
def execRdRsr (s : State) : Result State := returnRead s (rsrValue s)

/-- `WR_RSR` (R266). -/
def execWrRsr (v : Word) (s : State) : Result State :=
  ifAccepted .rsr v (.next { s with regs := { s.regs with rsr := writeOneToClear s.regs.rsr v 0x7 } })

/-! ### Queue pointers -/

/-- `RD_RBQP` (R261). -/
def execRdRbqp (s : State) : Result State := returnRead s (rbqpValue s)

/-- `WR_RBQP` (R262). -/
def execWrRbqp (v : Word) (s : State) : Result State :=
  ifQueueAligned v
    (if rxEnabled s || s.rx.state != .idle then .fault .rbqpWriteWhileReceiving
     else .next { s with rx := { s.rx with base := v, ptr := v } })

/-- `RD_TBQP` (R263). -/
def execRdTbqp (s : State) : Result State := returnRead s (tbqpValue s)

/-- `WR_TBQP` (R264). -/
def execWrTbqp (v : Word) (s : State) : Result State :=
  ifQueueAligned v
    (if s.tx.state = .active then .fault .tbqpWriteWhileTransmitting
     else .next { s with tx := { s.tx with base := v, ptr := v } })

/-! ### Interrupt status and mask -/

/-- `RD_ISR` (R267): returns `ISR` and clears it in the same step. -/
def execRdIsr (s : State) : Result State :=
  returnRead { s with regs := { s.regs with isr := 0 } } (isrValue s)

/-- `WR_IER` (R268): unmasks. -/
def execWrIer (v : Word) (s : State) : Result State :=
  ifAccepted .ier v (.next { s with regs := { s.regs with imask := s.regs.imask &&& ~~~v } })

/-- `WR_IDR` (R269): masks. -/
def execWrIdr (v : Word) (s : State) : Result State :=
  ifAccepted .idr v (.next { s with regs := { s.regs with imask := s.regs.imask ||| v } })

/-- `RD_IMR` (R270). -/
def execRdImr (s : State) : Result State := returnRead s (imrValue s)

/-! ### `MAN` -/

/-- `RD_MAN` (R271). -/
def execRdMan (s : State) : Result State := returnRead s (manValue s)

/-- `v` is a legal management encoding (30_encoding.md R222). -/
def manLegal (v : Word) : Bool :=
  match decodeMan v with
  | .ok _ => true
  | .error _ => false

/-- `WR_MAN` (R272): stored only while `MPE = 0` (44_mdio.md R404), a frame start otherwise (R402). -/
def execWrMan (v : Word) (s : State) : Result State :=
  if s.mdio.busy then .fault .mdioWriteWhileBusy
  else if !mgmtEnabled s then .next { s with regs := { s.regs with man := v } }
  else if manLegal v then .next (mdioStart s v)
  else .refused .manReserved

/-! ### Station address and user I/O -/

/-- `RD_SA1B` (R273). -/
def execRdSa1b (s : State) : Result State := returnRead s (sa1bValue s)

/-- `WR_SA1B` (R274). -/
def execWrSa1b (v : Word) (s : State) : Result State := .next { s with regs := { s.regs with sa1b := v } }

/-- `RD_SA1T` (R275). -/
def execRdSa1t (s : State) : Result State := returnRead s (sa1tValue s)

/-- `WR_SA1T` (R276). -/
def execWrSa1t (v : Word) (s : State) : Result State :=
  ifAccepted .sa1t v (.next { s with regs := { s.regs with sa1t := v } })

/-- `RD_USRIO` (R277). -/
def execRdUsrio (s : State) : Result State := returnRead s (usrioValue s)

/-- `WR_USRIO` (R278). -/
def execWrUsrio (v : Word) (s : State) : Result State :=
  ifAccepted .usrio v (.next { s with regs := { s.regs with usrio := v } })

end Sys2Proof.Machine
end

