-- ==== Sys2Proof/Machine/Mdio.lean ====
section
/-!
DEFINITION. The management controller (44_mdio.md): its two pins, which are functions of the state, as the interrupt line is,
and the two management frames. Each meaning is one step of the controller, one MDC period (R406): it holds unless a frame
is in progress (R400), the period's bit is on the line (R405, `mdioPin`), the periods before the last change only
`mdio_bit`, and the step with `mdio_bit = 63` completes the frame (R409).
-/

namespace Sys2Proof.Machine

/-! ### The wire (R223, R401, R405, R407, R408) -/

/-- The frame of a management word is a read (R402). -/
def isReadFrame (w : Word) : Bool := w.extractLsb' 28 2 == 2#2

/-- The bit of a frame in period `k`: 32 bits of 1, then the word from bit 31 down to bit 0 (R223, R405). -/
def frameBit (w : Word) (k : Nat) : Bool := if k < 32 then true else w.getLsbD (63 - k)

/-- What the controller drives in period `k`: all 64 periods of a write (R408), and periods 0 to 45 of a read, after which
it releases the line (R407). -/
def controllerDrives (w : Word) (k : Nat) : Option Bool :=
  if k < 64 && !(isReadFrame w && 46 ≤ k) then some (frameBit w k) else none

/-- What the PHY drives in period `k` of a read it answers with `v`: 0 in period 47 and the 16 data bits, most significant
first, in periods 48 to 63 (R407). -/
def phyDrives (w : Word) (v : Half) (k : Nat) : Option Bool :=
  if !isReadFrame w then none
  else if k = 47 then some false
  else if 48 ≤ k && k < 64 then some (v.getLsbD (63 - k))
  else none

/-- The line in period `k`; `none` where nobody drives it. -/
def lineBit (w : Word) (v : Half) (k : Nat) : Option Bool := (controllerDrives w k).or (phyDrives w v k)

/-- The 16 bits the controller samples in periods 48 to 63, most significant first (R407). -/
def sampledBits (w : Word) (v : Half) : List (Option Bool) := (List.range 16).map fun j => lineBit w v (48 + j)

/-- The MDIO pin as the controller drives it in this state: the bit of the period at hand, and nothing while `MPE = 0`
(R401) or while no frame is in progress (DESIGN CHOICE with `MPE = 1`, log 22). -/
def mdioPin (s : State) : Option Bool :=
  if mgmtEnabled s && s.mdio.busy then controllerDrives s.mdio.word s.mdio.bit else none

/-- The MDC output is held while `MPE = 0` (R401). DESIGN CHOICE (log 22): it is not held while `MPE = 1`, between frames too. -/
def mdcHeld (s : State) : Bool := !mgmtEnabled s

/-- The divider of the peripheral clock that gives MDC, by `NCFG.CLK` (R406). -/
def mdcDivider (clk : BitVec 2) : Nat := 8 * 2 ^ clk.toNat

/-! ### The two frames -/

/-- One MDC period of a frame whose completion is `k` (R400, R406, R409). -/
def mdioPeriod (s : State) (k : State) : Result State :=
  if s.mdio.busy then
    if s.mdio.bit < 63 then .next { s with mdio := { s.mdio with bit := s.mdio.bit + 1 } } else .next k
  else .next s

/-- The controller is idle again, `MAN` holds `v`, and `MFD` is recorded (R409, R410, R412). -/
def mdioDone (s : State) (v : Word) : State :=
  raise { s with regs := { s.regs with man := v }, mdio := { s.mdio with busy := false, bit := 0 } } isrMfd

/-- Completion of a read (R413): `MAN := (draw16, val)`, with `val` the PHY's answer (R420). -/
def mdioReadDone (f : ManFields) (s : State) : State :=
  emit (mdioDone s (s.draws.word.extractLsb' 16 16 ++ s.draws.phyAnswer)) (.mdioRead f.phya f.rega s.draws.phyAnswer)

/-- Completion of a write (R414): `MAN := draw32`. -/
def mdioWriteDone (f : ManFields) (s : State) : State :=
  emit (mdioDone s s.draws.word) (.mdioWrite f.phya f.rega f.data)

/-- `MDIO_READ` (R407, R413). -/
def execMdioRead (f : ManFields) (s : State) : Result State := mdioPeriod s (mdioReadDone f s)

/-- `MDIO_WRITE` (R408, R414). -/
def execMdioWrite (f : ManFields) (s : State) : Result State := mdioPeriod s (mdioWriteDone f s)

end Sys2Proof.Machine
end

