-- ==== Sys2Proof/Machine/RxEngine.lean ====
section
/-!
DEFINITION. The two RX descriptor forms and the medium's steps (43_rx_engine.md). Each meaning is the step the RX engine
takes at the descriptor at `rx_ptr`; it holds unless `NCR.RE = 1` and `rx_state = FRAME` (R350).
-/

namespace Sys2Proof.Machine

/-- The engine's step with the frame it is storing, if it has one (R350). -/
def whileReceiving (s : State) (k : RxFrame → Result State) : Result State :=
  match s.rx.state with
  | .idle => .next s
  | .frame g => if rxEnabled s then k g else .next s

/-- `n`, the bytes stored in this buffer (R355). -/
def chunkSize (g : RxFrame) : Nat := min rxBufSize (g.bytes.length - g.pos)

/-- `last` (R355). -/
def isLastChunk (g : RxFrame) : Bool := g.pos + chunkSize g = g.bytes.length

/-- The four writes of an `RXD_FREE` step, in their order (R356): the data, the drawn tail (R359), word 1, word 0. -/
def fillBuffer (f : RxFields) (s : State) (g : RxFrame) : Memory :=
  let a := rxBufferOf f
  let n := chunkSize g
  let m1 := writeBytes s.mem a ((g.bytes.drop g.pos).take n)
  let m2 := writeBytes m1 (a + BitVec.ofNat 32 n) (s.draws.tail.toList.drop n)
  let m3 := writeWord m2 (s.rx.ptr + 4) (rxStatusWord g.bytes.length g.first (isLastChunk g))
  writeWord m3 s.rx.ptr (rxFilledWord f)

/-- The state after a filled buffer (R355 to R358), the pointer moved to `p`. -/
def afterFill (f : RxFields) (s : State) (g : RxFrame) (p : Word) : State :=
  let s1 := { s with mem := fillBuffer f s g }
  if isLastChunk g then
    raise (setRsr { s1 with rx := { s.rx with state := .idle, ptr := p } } rsrRec) isrRcomp
  else { s1 with rx := { s.rx with
           state := .frame { bytes := g.bytes, pos := g.pos + chunkSize g, first := false }, ptr := p } }

/-- `RXD_FREE` (R355). DESIGN CHOICE (log 16): an advance that faults (R357) performs nothing of the step, none of the writes
of R356. -/
def execRxdFree (f : RxFields) (s : State) : Result State :=
  whileReceiving s fun g =>
    if !admitsRange s.cfg (rxBufferOf f) rxBufSize then .fault .misalignedDma
    else if !descriptorOk s.cfg s.rx.ptr then .fault .misalignedDma
    else
      match advance s.rx.base s.rx.ptr f.wrap with
      | none => .fault .queueWrapOverflow
      | some p => .next (afterFill f s g p)

/-- The frame in progress is dropped with `BNA` (R360). -/
def dropFrame (s : State) : State :=
  raise (setRsr (rxOff s) rsrBna) isrRxubr

/-- `RXD_FULL` (R360). The operands are not used: the engine reads word 0 only for `OWN`. -/
def execRxdFull (_f : RxFields) (s : State) : Result State :=
  whileReceiving s fun _ => .next (dropFrame s)

/-! ### The medium (R352, R361) -/

/-- The drawn frame is one the medium may offer (R352). -/
def frameOffered (s : State) : Bool :=
  1 ≤ s.draws.frame.length && s.draws.frame.length ≤ s.cfg.rxMaxFrame

/-- The medium's step while reception is enabled: an offer while the engine is `IDLE` (R352), an overrun while it is
storing a frame (R361). -/
def mediumStep (s : State) : State :=
  if rxEnabled s && frameOffered s then
    match s.rx.state with
    | .idle =>
      emit { s with rx := { s.rx with state := .frame { bytes := s.draws.frame, pos := 0, first := true } } }
        (.rxOffered s.draws.frame)
    | .frame _ => emit (raise (setRsr s rsrOvr) isrRovr) (.rxOffered s.draws.frame)
  else s

end Sys2Proof.Machine
end

