-- ==== Sys2Proof/Machine/TxEngine.lean ====
section
/-!
DEFINITION. The three TX descriptor forms (42_tx_engine.md). Each meaning is the step the TX engine takes at the
descriptor at `tx_ptr`; while the engine is `IDLE` it holds (R300), which changes nothing.
-/

namespace Sys2Proof.Machine

/-- The engine's step, if it has one: it holds while `tx_state = IDLE` (R300). -/
def whileActive (s : State) (k : Result State) : Result State :=
  if s.tx.state = .active then k else .next s

/-- The checks of R306 on an owned descriptor, in their order, and then its data (R304 step 3): the reserved bits and `LEN`,
the descriptor's word 0, its low bits, the admission of the buffer. -/
def txData (f : TxFields) (s : State) : Result (List Byte) :=
  if !TxFields.wf f then .refused .txDescriptorReserved
  else if !descriptorOk s.cfg s.tx.ptr then .fault .misalignedDma
  else if readWord s.mem s.tx.ptr &&& 0x3 != 0 then .fault .misalignedDma
  else if !admitsRange s.cfg (readWord s.mem s.tx.ptr) f.len.toNat then .fault .misalignedDma
  else .next (readBytes s.mem (readWord s.mem s.tx.ptr) f.len.toNat)

/-- The frame after a descriptor's data is appended (R307, R308 step 1). -/
def gather (s : State) (data : List Byte) : TxFrame :=
  match s.tx.frame with
  | none => { first := s.tx.ptr, bytes := data }
  | some fr => { first := fr.first, bytes := fr.bytes ++ data }

/-- The write into word 1 of a frame's first descriptor, the event and the status of an outcome (R311, R312, R316).
`W1` is re-read in this step. -/
def finishFrame (s : State) (fr : TxFrame) (o : TxOutcome) : State :=
  let s1 := { s with mem := writeWord s.mem (fr.first + 4) (readWord s.mem (fr.first + 4) ||| outcomeDescBits o) }
  emit (raise (setTsr s1 (outcomeTsr o)) (outcomeIsr o)) (.txFrame fr.bytes o)

/-- Where the pointer goes after a frame's last descriptor: by R305 after a delivery, by R315 after an error. -/
def pointerAfterLast (s : State) (wrap : Bool) (o : TxOutcome) : Option Word :=
  if delivered o then advance s.tx.base s.tx.ptr wrap
  else
    match s.cfg.txErrPtr with
    | .resetToBase => some s.tx.base
    | .hold => advance s.tx.base s.tx.ptr wrap

/-- The state after a frame's last descriptor (R308, R312). -/
def afterLast (s : State) (fr : TxFrame) (o : TxOutcome) (p : Word) : State :=
  { finishFrame s fr o with
    tx := { state := if delivered o then .active else .idle, base := s.tx.base, ptr := p, frame := none } }

/-- `TXD_BUF` (R307). DESIGN CHOICE (log 16): an advance that faults performs nothing of the step. -/
def execTxdBuf (f : TxFields) (s : State) : Result State :=
  whileActive s
    (andThen (txData f s) fun data =>
      match advance s.tx.base s.tx.ptr f.wrap with
      | none => .fault .queueWrapOverflow
      | some p => .next { s with tx := { s.tx with ptr := p, frame := some (gather s data) } })

/-- `TXD_LAST` (R308). DESIGN CHOICE (log 16): an advance that faults performs nothing of the step, no event and no
completion write. -/
def execTxdLast (f : TxFields) (s : State) : Result State :=
  whileActive s
    (andThen (txData f s) fun data =>
      let fr := gather s data
      let o := mediumOutcome (fullDuplex s) s.draws.outcome
      if !descriptorOk s.cfg fr.first then .fault .misalignedDma
      else
        match pointerAfterLast s f.wrap o with
        | none => .fault .queueWrapOverflow
        | some p => .next (afterLast s fr o p))

/-- The engine stops at a frame boundary (R310). -/
def stopAtBoundary (s : State) : State :=
  raise (setTsr { s with tx := { s.tx with state := .idle } } tsrUbr) isrTxubr

/-- The engine runs out of buffers in the middle of a frame (R311). -/
def stopMidFrame (s : State) (fr : TxFrame) : State :=
  { finishFrame s fr .bex with
    tx := { state := .idle, base := s.tx.base,
            ptr := match s.cfg.txErrPtr with
              | .resetToBase => s.tx.base
              | .hold => s.tx.ptr,
            frame := none } }

/-- `TXD_STOP` (R310 at a frame boundary, R311 in the middle of a frame). The operands are not used: the engine reads word 1
only for `USED`. -/
def execTxdStop (_last : Bool) (_f : TxFields) (s : State) : Result State :=
  whileActive s
    (match s.tx.frame with
     | none => .next (stopAtBoundary s)
     | some fr =>
       if !descriptorOk s.cfg fr.first then .fault .misalignedDma
       else .next (stopMidFrame s fr))

end Sys2Proof.Machine
end

