-- ==== Sys2Proof/Machine/Dispatch.lean ====
section
/-!
DEFINITION. One arm per command of the opcode table.
-/

namespace Sys2Proof.Machine

def exec (i : Instr) (s : State) : Host.Outcome State Fault Refusal :=
  match i with
  | .rdNcr => Sys2Proof.Machine.execRdNcr s
  | .wrNcr v => Sys2Proof.Machine.execWrNcr v s
  | .rdNcfg => Sys2Proof.Machine.execRdNcfg s
  | .wrNcfg v => Sys2Proof.Machine.execWrNcfg v s
  | .rdNsr => Sys2Proof.Machine.execRdNsr s
  | .rdTsr => Sys2Proof.Machine.execRdTsr s
  | .wrTsr v => Sys2Proof.Machine.execWrTsr v s
  | .rdRbqp => Sys2Proof.Machine.execRdRbqp s
  | .wrRbqp v => Sys2Proof.Machine.execWrRbqp v s
  | .rdTbqp => Sys2Proof.Machine.execRdTbqp s
  | .wrTbqp v => Sys2Proof.Machine.execWrTbqp v s
  | .rdRsr => Sys2Proof.Machine.execRdRsr s
  | .wrRsr v => Sys2Proof.Machine.execWrRsr v s
  | .rdIsr => Sys2Proof.Machine.execRdIsr s
  | .wrIer v => Sys2Proof.Machine.execWrIer v s
  | .wrIdr v => Sys2Proof.Machine.execWrIdr v s
  | .rdImr => Sys2Proof.Machine.execRdImr s
  | .rdMan => Sys2Proof.Machine.execRdMan s
  | .wrMan v => Sys2Proof.Machine.execWrMan v s
  | .rdSa1b => Sys2Proof.Machine.execRdSa1b s
  | .wrSa1b v => Sys2Proof.Machine.execWrSa1b v s
  | .rdSa1t => Sys2Proof.Machine.execRdSa1t s
  | .wrSa1t v => Sys2Proof.Machine.execWrSa1t v s
  | .rdUsrio => Sys2Proof.Machine.execRdUsrio s
  | .wrUsrio v => Sys2Proof.Machine.execWrUsrio v s
  | .txdStop last f => Sys2Proof.Machine.execTxdStop last f s
  | .txdBuf f => Sys2Proof.Machine.execTxdBuf f s
  | .txdLast f => Sys2Proof.Machine.execTxdLast f s
  | .rxdFree f => Sys2Proof.Machine.execRxdFree f s
  | .rxdFull f => Sys2Proof.Machine.execRxdFull f s
  | .mdioRead f => Sys2Proof.Machine.execMdioRead f s
  | .mdioWrite f => Sys2Proof.Machine.execMdioWrite f s

end Sys2Proof.Machine
end

