-- ==== Sys2Proof/Machine/HostBus.lean ====
section
/-!
DEFINITION. The host's accesses: issuing register operations (41_host_registers.md R250 to R253, R279), memory accesses
with their width and ownership rules (20_memory.md R156, R160, R163 to R166), and the routing of a bus access by its address
(R150).
-/

namespace Sys2Proof.Machine

/-- What an access returns: a word, and the bytes. -/
structure HostValue where
  word : Word
  bytes : List Byte
  deriving DecidableEq, Repr

/-- An access that returns nothing. -/
def HostValue.nothing : HostValue := ⟨0, []⟩

/-- The outcome of a host step's access: `none` where the context holds (R18). -/
abbrev Access := Result (Option (State × HostValue))

/-! ### Register operations -/

/-- The refusal of a command the decoder refuses (R279, R222). -/
def refusalOf : DecodeError → Refusal
  | .unmappedRegister => .unmappedRegister
  | .readOnlyRegister => .readOnlyRegister
  | .writeOnlyRegister => .writeOnlyRegister
  | .manReserved => .manReserved
  | .notACommand => .unmappedRegister
  | .truncated => .unmappedRegister

/-- A register read is issued: a refused command is refused at once (R279); otherwise the context holds until `pw` is empty
(R251, R253), and the read is performed. -/
def hostRegRead (cmd : BusCommand) (s : State) : Access :=
  match decodeBus cmd 0 with
  | .error e => .refused (refusalOf e)
  | .ok i =>
    if s.pw.isEmpty then andThen (exec i s) fun t => .next (some (t, ⟨t.rdata, leBytes t.rdata⟩))
    else .next none

/-- A register write is issued: a refused command is refused at once and never enters `pw` (R279); otherwise the write is
posted (R252). -/
def hostRegWrite (cmd : BusCommand) (v : Word) (s : State) : Access :=
  match decodeBus cmd v, regAt (cmd.extractLsb' 0 8) with
  | .error e, _ => .refused (refusalOf e)
  | .ok _, none => .refused .unmappedRegister
  | .ok _, some r => .next (some ({ s with pw := s.pw ++ [(r, v)] }, HostValue.nothing))

/-! ### Memory accesses -/

/-- The access touches a descriptor word (R160). -/
def isDescriptorAccess (c : Config) (a : Word) (n : Nat) : Bool :=
  touches a n c.rxDescBase (8 * c.rxCount) || touches a n c.txDescBase (8 * c.txCount)

/-- An aligned 32-bit access (R160). -/
def isWordAccess (a : Word) (n : Nat) : Bool := n == 4 && a &&& 0x3 == 0

/-- RX descriptor i is owned by hardware: `OWN = 0` (30_encoding.md R211). -/
def rxHardwareOwned (s : State) (i : Nat) : Bool := !(readWord s.mem (descRx s.cfg i)).getLsbD 0

/-- The buffer RX descriptor i names (30_encoding.md R214). -/
def rxSlotBuffer (s : State) (i : Nat) : Word := readWord s.mem (descRx s.cfg i) &&& 0xFFFFFFFC

/-- TX descriptor i is owned by hardware: `USED = 0` (R211). -/
def txHardwareOwned (s : State) (i : Nat) : Bool := !(readWord s.mem (descTx s.cfg i + 4)).getLsbD 31

/-- The buffer TX descriptor i names (30_encoding.md R218). -/
def txSlotBuffer (s : State) (i : Nat) : Word := readWord s.mem (descTx s.cfg i)

/-- The bytes of that buffer: `TX_BUF_SIZE`, or `LEN` where that is more, since the engine reads `LEN` bytes (log 9). -/
def txSlotSize (s : State) (i : Nat) : Nat :=
  max s.cfg.txBufSize (txFields (readWord s.mem (descTx s.cfg i + 4))).len.toNat

/-- Address `x` is inside the buffer of a hardware-owned RX descriptor (R164). -/
def inHardwareRxBuffer (s : State) (x : Word) : Bool :=
  (List.range s.cfg.rxCount).any fun i => rxHardwareOwned s i && inSpan x (rxSlotBuffer s i) rxBufSize

/-- Drawn byte `k` of the step (log 2). -/
def drawByte (s : State) (k : Nat) : Byte := (s.draws.tail.toList[k]?).getD (Config.freeByte s.drawCount k)

/-- Byte `k` of a host load at `a` (R164: a byte the hardware may be writing is a draw). -/
def loadByte (s : State) (a : Word) (k : Nat) : Byte :=
  if inHardwareRxBuffer s (a + BitVec.ofNat 32 k) then drawByte s k else readByte s.mem (a + BitVec.ofNat 32 k)

/-- The little-endian word of the first four bytes of a list, missing bytes 0. -/
def wordOfBytes (bs : List Byte) : Word := leWord (bs.getD 0 0) (bs.getD 1 0) (bs.getD 2 0) (bs.getD 3 0)

/-- A host load of `n` bytes from system memory in one transfer: a descriptor word only as an aligned word (R160), at any
time (R163), and in every case each byte the hardware may be writing is a draw (R164). -/
def hostLoad (a : Word) (n : Nat) (s : State) : Access :=
  if isDescriptorAccess s.cfg a n && !isWordAccess a n then .refused .descriptorWidth
  else
    let bs := (List.range n).map (loadByte s a)
    .next (some (s, ⟨wordOfBytes bs, bs⟩))

/-- A store of `n` bytes at `a` touches a hardware-owned RX descriptor or its buffer (R165). DESIGN CHOICE (log 17): also where
the store is of a TX word 1 that lies inside such a buffer, which R166 permits at any time. -/
def breaksRxOwnership (s : State) (a : Word) (n : Nat) : Bool :=
  (List.range s.cfg.rxCount).any fun i =>
    rxHardwareOwned s i && (touches a n (descRx s.cfg i) 8 || touches a n (rxSlotBuffer s i) rxBufSize)

/-- A store of `n` bytes at `a` touches word 0 or the buffer of a hardware-owned TX descriptor (R166). Word 1 may be written
at any time; DESIGN CHOICE (log 17): unless it lies inside a buffer a hardware-owned descriptor names, where R166 both
permits and faults the store and the model faults it. -/
def breaksTxOwnership (s : State) (a : Word) (n : Nat) : Bool :=
  (List.range s.cfg.txCount).any fun i =>
    txHardwareOwned s i && (touches a n (descTx s.cfg i) 4 || touches a n (txSlotBuffer s i) (txSlotSize s i))

/-- Reception can run: `NCR.RE = 1` or `rx_state = FRAME` (R165). -/
def receptionCanRun (s : State) : Bool := rxEnabled s || s.rx.state != .idle

/-- A host store into system memory, with the faults of R165 and R166, in which the store is still performed (log 8). A TX word 1
inside a hardware-owned buffer, of either ring, is a point of log 17. -/
def hostStore (a : Word) (bs : List Byte) (s : State) : Access :=
  if isDescriptorAccess s.cfg a bs.length && !isWordAccess a bs.length then .refused .descriptorWidth
  else
    let t := { s with mem := writeBytes s.mem a bs }
    if receptionCanRun s && breaksRxOwnership s a bs.length then .fault (.rxOwnershipViolation t)
    else if s.tx.state = .active && breaksTxOwnership s a bs.length then .fault (.txOwnershipViolation t)
    else .next (some (t, HostValue.nothing))

/-! ### Routing -/

/-- The command of a register access at address `a` (R250). -/
def commandAt (c : Config) (write : Bool) (a : Word) : BusCommand :=
  BitVec.ofBool write ++ (a - c.emacBase).extractLsb' 0 8

/-- One access of the host's bus (R150, R160): an access that touches the register window is a register operation and must
be an aligned 32-bit one; every other access is one of system memory. DESIGN CHOICE (log 18): the width is tested before
the offset, so a narrow access at an offset R200 does not list is `register_width` and not `unmapped_register`. -/
def hostBus (x : BusAccess) (s : State) : Access :=
  match x with
  | .load a n =>
    if touches a n s.cfg.emacBase windowSize then
      if isWordAccess a n then hostRegRead (commandAt s.cfg false a) s else .refused .registerWidth
    else hostLoad a n s
  | .store a bs =>
    if touches a bs.length s.cfg.emacBase windowSize then
      if isWordAccess a bs.length then hostRegWrite (commandAt s.cfg true a) (wordOfBytes bs) s
      else .refused .registerWidth
    else hostStore a bs s

/-- `LDB`: `n` host loads of one byte each in one host step (30_encoding.md R232). One that meets the register window or a
descriptor word has another width than R160 allows there, whatever `n` is (R156). DESIGN CHOICE (log 18): the register window
is tested first. -/
def hostLoadBytes (a : Word) (n : Nat) (s : State) : Access :=
  if touches a n s.cfg.emacBase windowSize then .refused .registerWidth
  else if isDescriptorAccess s.cfg a n then .refused .descriptorWidth
  else hostLoad a n s

/-- `STB`: host stores of one byte each in one host step (30_encoding.md R232), with the widths as for `LDB`. -/
def hostStoreBytes (a : Word) (bs : List Byte) (s : State) : Access :=
  if touches a bs.length s.cfg.emacBase windowSize then .refused .registerWidth
  else if isDescriptorAccess s.cfg a bs.length then .refused .descriptorWidth
  else hostStore a bs s

/-! ### What a line of a procedure asks for -/

/-- The one access, or other effect, of a host step (30_encoding.md R232). -/
inductive HostOp where
  /-- `RD x, REG`. -/
  | regRead (r : Reg)
  /-- `WR REG, v`. -/
  | regWrite (r : Reg) (v : Word)
  /-- `LDB`. -/
  | loadBytes (a : Word) (n : Nat)
  /-- `STB`. -/
  | storeBytes (a : Word) (bytes : List Byte)
  /-- One transfer of any address and width; `LD32` and `ST32` are those of an aligned word. -/
  | bus (x : BusAccess)
  /-- No access: an assignment, `delay()`, a collaborator. -/
  | software
  /-- The context holds. -/
  | hold
  /-- A collaborator that has performed a management frame returns once `MPE = 0` and no frame is in progress (44_mdio.md
  R424), and holds until then. -/
  | portOff
  /-- `register_handler` (60_exceptions.md R616). -/
  | register
  /-- `fault(read_precondition)` (46_sw_receive.md R512). -/
  | stop
  deriving DecidableEq, Repr

/-- `LD32` (30_encoding.md R232). -/
def ld32 (a : Word) : HostOp := .bus (.load a 4)

/-- `ST32` (30_encoding.md R232). -/
def st32 (a v : Word) : HostOp := .bus (.store a (leBytes v))

/-- Performs a host step's access. -/
def perform (op : HostOp) (s : State) : Access :=
  match op with
  | .regRead r => hostRegRead (busCommand false r) s
  | .regWrite r v => hostRegWrite (busCommand true r) v s
  | .loadBytes a n => hostLoadBytes a n s
  | .storeBytes a bs => hostStoreBytes a bs s
  | .bus x => hostBus x s
  | .software => .next (some (s, HostValue.nothing))
  | .hold => .next none
  | .portOff => .next (if mgmtEnabled s || s.mdio.busy then none else some (s, HostValue.nothing))
  | .register => .next (some ({ s with handler := true }, HostValue.nothing))
  | .stop => .fault .readPrecondition

end Sys2Proof.Machine
end

