-- ==== Sys2Proof/Machine/HostProcedures.lean ====
section
/-!
DEFINITION. The reference host procedures (45_sw_transmit.md, 46_sw_receive.md, 47_sw_phy_init.md, 60_exceptions.md R607),
line by line: `opOf` is the one access a line makes, `nextOf` is what the line does with its answer and which line comes next.
Assignments of software variables go with the access before them (log 13).
-/

namespace Sys2Proof.Machine

/-! ### The access each line makes -/

/-- The bytes `send()` puts into the next buffer: `n = min(rem, TX_BUF_SIZE)` (R453). -/
def sendChunk (c : Config) (l : SendLocals) : Nat := min l.rem.toNat c.txBufSize

/-- `frame[off .. off+n-1]` (R453). -/
def sendBytes (c : Config) (l : SendLocals) : List Byte := (l.frame.drop l.off.toNat).take (sendChunk c l)

/-- `off := off + n; rem := rem - n` (R453), on 32-bit locals (00_scope.md R19). -/
def sendAdvance (c : Config) (l : SendLocals) : SendLocals :=
  { l with off := l.off + BitVec.ofNat 32 (sendChunk c l), rem := l.rem - BitVec.ofNat 32 (sendChunk c l) }

/-- `last := is_last and (n = rem)` (R453). -/
def sendLast (c : Config) (l : SendLocals) : Bool := l.isLast && sendChunk c l == l.rem.toNat

/-- `wrap := (tx_index = TX_COUNT - 1)` (R453). -/
def sendWrap (c : Config) (sw : Software) : Bool := sw.txIndex + 1 == c.txCount

/-- `n := min(128 - rx_offset, total - rx_consumed, s - got)` (R511). -/
def readChunk (sw : Software) (l : ReadLocals) : Nat :=
  min (rxBufSize - sw.rxOffset) (min (l.total.toNat - sw.rxConsumed) (l.len.toNat - l.dest.length))

/-- The clock divider as the `CLK` field of `NCFG`, in place (R560, R563). -/
def clkWord (c : Config) : Word := ((clkDiv c.mck).getD 0).setWidth 32 <<< 10

/-- `W0 & ~OWN`: an RX descriptor is reclaimed to hardware (20_memory.md R172). -/
def reclaimed (w0 : Word) : Word := w0 &&& 0xFFFFFFFE

/-- The access, or other effect, of a line. -/
def opOf (c : Config) (sw : Software) (d : Draws) : Point → HostOp
  | .access a => .bus a
  -- setup() (R450)
  | .setupTxWord0 i => st32 (descTx c i) (txBufferAddr c i)
  | .setupTxWord1 i => st32 (descTx c i + 4) (0x80000000 ||| (if i + 1 = c.txCount then 0x40000000 else 0))
  | .setupRxWord1 i => st32 (descRx c i + 4) 0
  | .setupRxWord0 i => st32 (descRx c i) (rxBufferAddr c i ||| (if i + 1 = c.rxCount then 0x2 else 0))
  | .setupCursors => .software
  | .setupRbqp => .regWrite .rbqp (descRx c 0)
  | .setupTbqp => .regWrite .tbqp (descTx c 0)
  -- send() (R453)
  | .sendWait _ => ld32 (descTx c sw.txIndex + 4)
  | .sendDelay _ => .software
  | .sendCopy l => .storeBytes (txBufferAddr c sw.txIndex) (sendBytes c l)
  | .sendHandover l =>
    st32 (descTx c sw.txIndex + 4) (sendWord (sendChunk c l) (sendLast c l) (sendWrap c sw))
  | .sendReadNcr _ => .regRead .ncr
  | .sendStart _ t => .regWrite .ncr ((t &&& 0x1C) ||| 0x200)
  -- tx_reclaim_proc() (R470)
  | .reclaimTest => ld32 (descTx c sw.txReclaim + 4)
  | .reclaimLoad => ld32 (descTx c sw.txReclaim + 4)
  | .reclaimMark w => st32 (descTx c sw.txReclaim + 4) (w ||| 0x80000000)
  -- input_length() (R501)
  | .lengthStatus => .regRead .rsr
  | .lengthSkipWord0 => ld32 (descRx c sw.rxIndex)
  | .lengthSkipWord1 _ => ld32 (descRx c sw.rxIndex + 4)
  | .lengthSkipReclaim w0 => st32 (descRx c sw.rxIndex) (reclaimed w0)
  | .lengthWalkWord0 j => ld32 (descRx c j)
  | .lengthWalkWord1 j => ld32 (descRx c j + 4)
  | .lengthDropLoad _ k _ => ld32 (descRx c k)
  | .lengthDropReclaim _ k _ t => st32 (descRx c k) (reclaimed t)
  | .lengthAfterBna => .software
  -- read() (R510 to R512). DESIGN CHOICE (log 20): `s > total - rx_consumed` is over the integers, so it holds of every `s`
  -- where `total < rx_consumed`; and the test of case 2, `w0[0] = 0`, is made and its fault recorded in the step of the LDB
  -- line (`readCopy`), after the step of the LD32 line (`readLoad`) ended normally.
  | .readNull => .software
  | .readCheck l => if l.total.toNat < l.len.toNat + sw.rxConsumed then .stop else .software
  | .readLoad _ => ld32 (descRx c sw.rxIndex)
  | .readCopy l w0 =>
    if w0.getLsbD 0 then .loadBytes ((w0 &&& 0xFFFFFFFC) + BitVec.ofNat 32 sw.rxOffset) (readChunk sw l) else .stop
  | .readReclaim _ w0 => st32 (descRx c sw.rxIndex) (reclaimed w0)
  -- bna_recovery() (R520)
  | .bnaReadNcr => .regRead .ncr
  | .bnaDisable t => .regWrite .ncr (t &&& 0x18)
  | .bnaReadBack => .regRead .ncr
  | .bnaLoad i => ld32 (descRx c i)
  | .bnaReclaim i w => st32 (descRx c i) (reclaimed w)
  | .bnaClear => .regWrite .rsr 0x5
  | .bnaReadRsr => .regRead .rsr
  | .bnaRbqp => .regWrite .rbqp (descRx c 0)
  | .bnaIndex => .software
  | .bnaReadNcrAgain => .regRead .ncr
  | .bnaEnable t => .regWrite .ncr ((t &&& 0x18) ||| 0x4)
  -- wait_for_input() (R530)
  | .waitBlock => if sw.rxReady || d.timeout then .software else .hold
  | .waitTake => .software
  -- mdio_read(), mdio_write() (R550, R551)
  | .mdioReadNcr _ => .regRead .ncr
  | .mdioEnable _ t => .regWrite .ncr ((t &&& 0x1C) ||| 0x10)
  | .mdioMan op => .regWrite .man (manWord c.phyAddr op)
  | .mdioPoll _ => .regRead .nsr
  | .mdioResult => .regRead .man
  | .mdioReadNcrAgain _ => .regRead .ncr
  | .mdioDisable _ t => .regWrite .ncr (t &&& 0x0C)
  -- probe_and_negotiate() (R552)
  | .probeId1 => .software
  | .probeId2 => .software
  | .probeCompare _ => .software
  | .probeAdvertise => .software
  | .probeControl => .software
  | .probeAutoneg => .software
  | .probeWriteBack => .software
  | .probeStatus => .software
  | .probeLink => .software
  | .probePartner => .regRead .ncfg
  | .probeConfigure v => .regWrite .ncfg v
  | .collaborator framed => if d.collaborator.isNone && framed then .portOff else .software
  -- init() (R560)
  | .initHwReset => .software
  | .initNcr => .regWrite .ncr 0
  | .initTsr => .regWrite .tsr 0x77
  | .initRsr => .regWrite .rsr 0x07
  | .initIdr => .regWrite .idr 0xCFF
  | .initIsr => .regRead .isr
  | .initUsrio => .regWrite .usrio (usrioWord c.lineMode)
  | .initReadBack => .regRead .ncr
  | .initReadNcfg => .regRead .ncfg
  | .initNcfg t => .regWrite .ncfg ((t &&& 0x3) ||| clkWord c)
  | .initProbed => .software
  | .initRegister => .register
  | .initIer => .regWrite .ier 0x82
  | .initReadNcr => .regRead .ncr
  | .initEnable t => .regWrite .ncr ((t &&& 0x10) ||| 0x0C)
  -- the station address (R564, R565)
  | .stationStart => .software
  | .stationBottom a => .regWrite .sa1b (stationBottomWord a)
  | .stationTop a => .regWrite .sa1t (stationTopWord a)
  | .stationSet _ => .software
  -- disable() (R562)
  | .disableReadNcr => .regRead .ncr
  | .disableNcr t => .regWrite .ncr (t &&& 0x10)
  | .disableIdr => .regWrite .idr 0xCFF
  -- handle_event() (R607)
  | .eventIsr => .regRead .isr
  | .eventRsr _ => .regRead .rsr
  | .eventWake _ => .software
  | .eventClearRec _ _ => .regWrite .rsr 0x2
  | .eventReadRsr _ _ => .regRead .rsr
  | .eventTsr _ _ => .regRead .tsr
  | .eventClearComp _ => .regWrite .tsr 0x20
  | .eventReadTsr _ => .regRead .tsr

/-! ### What follows each line -/

/-- What a line leaves: the lines to take next (the first of them, and the callers it returns to), the software state, and
what the context has returned. -/
structure Next where
  push : List Point
  sw : Software
  ret : Word
  data : List Byte
  deriving DecidableEq, Repr

/-- Goes on with the lines `ps`. -/
def goOn (x : Context) (sw : Software) (ps : List Point) : Next := ⟨ps, sw, x.ret, x.data⟩

/-- `return v`. -/
def returns (x : Context) (sw : Software) (v : Word) : Next := ⟨[], sw, v, x.data⟩

/-- A boolean as a returned value. -/
def boolWord (b : Bool) : Word := if b then 1 else 0

/-- The head of the loop of `send()`: `while rem > 0`, and `return len(frame)` (R453). DESIGN CHOICE (log 24): `rem` and the
returned length are 32 bits wide (00_scope.md R19), also for a frame of 2^32 bytes or more. -/
def sendLoop (x : Context) (sw : Software) (l : SendLocals) : Next :=
  if l.rem = 0 then returns x sw (BitVec.ofNat 32 l.frame.length) else goOn x sw [.sendWait l]

/-- The head of the loop of `read()`: `while got < s` (R511). -/
def readLoop (x : Context) (sw : Software) (l : ReadLocals) : Next :=
  if l.dest.length < l.len.toNat then goOn x sw [.readLoad l] else ⟨[], sw, 0, l.dest⟩

/-- The terminal-length test of `input_length()` (R501). -/
def lengthTest (c : Config) (x : Context) (sw : Software) (j : Nat) (w1 : Word) : Next :=
  if rxLength w1 ≠ 0 then returns x sw (rxLength w1) else goOn x sw [.lengthWalkWord0 (nextIndex j c.rxCount)]

/-- The software state after a chunk of `read()` is copied (R511). -/
def readAdvance (sw : Software) (n : Nat) : Software :=
  { sw with rxOffset := sw.rxOffset + n, rxConsumed := sw.rxConsumed + n }

/-- What follows a line, given what its access returned. -/
def nextOf (c : Config) (sw : Software) (d : Draws) (x : Context) (v : HostValue) : Point → Next
  | .access _ => ⟨[], sw, v.word, v.bytes⟩
  -- setup()
  | .setupTxWord0 i => goOn x sw [.setupTxWord1 i]
  | .setupTxWord1 i => goOn x sw [if i + 1 < c.txCount then .setupTxWord0 (i + 1) else .setupRxWord1 0]
  | .setupRxWord1 i => goOn x sw [.setupRxWord0 i]
  | .setupRxWord0 i => goOn x sw [if i + 1 < c.rxCount then .setupRxWord1 (i + 1) else .setupCursors]
  | .setupCursors =>
    goOn x { sw with txIndex := 0, txReclaim := 0, rxIndex := 0, rxOffset := 0, rxConsumed := 0, rxReady := false }
      [.setupRbqp]
  | .setupRbqp => goOn x sw [.setupTbqp]
  | .setupTbqp => returns x sw 0
  -- send()
  | .sendWait l => goOn x sw [if v.word.getLsbD 31 then .sendCopy l else .sendDelay l]
  | .sendDelay l => goOn x sw [.sendWait l]
  | .sendCopy l => goOn x sw [.sendHandover l]
  | .sendHandover l =>
    let sw' := { sw with txIndex := if sendWrap c sw then 0 else sw.txIndex + 1 }
    if sendLast c l then goOn x sw' [.sendReadNcr (sendAdvance c l)] else sendLoop x sw' (sendAdvance c l)
  | .sendReadNcr l => goOn x sw [.sendStart l v.word]
  | .sendStart l _ => sendLoop x sw l
  -- tx_reclaim_proc()
  | .reclaimTest => if v.word.getLsbD 31 then goOn x sw [.reclaimLoad] else returns x sw 0
  | .reclaimLoad => goOn x sw [.reclaimMark v.word]
  | .reclaimMark w =>
    let sw' := { sw with txReclaim := nextIndex sw.txReclaim c.txCount }
    if w.getLsbD 15 then returns x sw' 0 else goOn x sw' [.reclaimLoad]
  -- input_length()
  | .lengthStatus =>
    if v.word.getLsbD 0 then goOn x sw [.bnaReadNcr, .lengthAfterBna] else goOn x sw [.lengthSkipWord0]
  | .lengthSkipWord0 => goOn x sw [.lengthSkipWord1 v.word]
  | .lengthSkipWord1 w0 =>
    if !w0.getLsbD 0 || v.word.getLsbD 14 then goOn x sw [.lengthWalkWord0 sw.rxIndex]
    else goOn x sw [.lengthSkipReclaim w0]
  | .lengthSkipReclaim _ => goOn x { sw with rxIndex := nextIndex sw.rxIndex c.rxCount } [.lengthSkipWord0]
  | .lengthWalkWord0 j => if v.word.getLsbD 0 then goOn x sw [.lengthWalkWord1 j] else returns x sw 0
  | .lengthWalkWord1 j =>
    if j ≠ sw.rxIndex ∧ v.word.getLsbD 14 = true then goOn x sw [.lengthDropLoad j sw.rxIndex v.word]
    else lengthTest c x sw j v.word
  | .lengthDropLoad j k w1 => goOn x sw [.lengthDropReclaim j k w1 v.word]
  | .lengthDropReclaim j k w1 _ =>
    if nextIndex k c.rxCount ≠ j then goOn x sw [.lengthDropLoad j (nextIndex k c.rxCount) w1]
    else lengthTest c x { sw with rxIndex := j } j w1
  | .lengthAfterBna => returns x sw 0
  -- read()
  | .readNull => returns x { sw with rxOffset := 0, rxConsumed := 0 } 0
  | .readCheck l => readLoop x sw l
  | .readLoad l => goOn x sw [.readCopy l v.word]
  | .readCopy l w0 =>
    let sw' := readAdvance sw (readChunk sw l)
    let l' := { l with dest := l.dest ++ v.bytes }
    if sw'.rxOffset = rxBufSize ∨ sw'.rxConsumed = l.total.toNat then goOn x sw' [.readReclaim l' w0] else readLoop x sw' l'
  | .readReclaim l _ => readLoop x { sw with rxIndex := nextIndex sw.rxIndex c.rxCount, rxOffset := 0 } l
  -- bna_recovery()
  | .bnaReadNcr => goOn x sw [.bnaDisable v.word]
  | .bnaDisable _ => goOn x sw [.bnaReadBack]
  | .bnaReadBack => goOn x sw [.bnaLoad 0]
  | .bnaLoad i => goOn x sw [.bnaReclaim i v.word]
  | .bnaReclaim i _ => goOn x sw [if i + 1 < c.rxCount then .bnaLoad (i + 1) else .bnaClear]
  | .bnaClear => goOn x sw [.bnaReadRsr]
  | .bnaReadRsr => goOn x sw [.bnaRbqp]
  | .bnaRbqp => goOn x sw [.bnaIndex]
  | .bnaIndex => goOn x { sw with rxIndex := 0 } [.bnaReadNcrAgain]
  | .bnaReadNcrAgain => goOn x sw [.bnaEnable v.word]
  | .bnaEnable _ => returns x sw 0
  -- wait_for_input()
  | .waitBlock => goOn x sw [.waitTake]
  | .waitTake => returns x { sw with rxReady := false } (boolWord sw.rxReady)
  -- mdio_read(), mdio_write()
  | .mdioReadNcr op => goOn x sw [.mdioEnable op v.word]
  | .mdioEnable op _ => goOn x sw [.mdioMan op]
  | .mdioMan op => goOn x sw [.mdioPoll op]
  | .mdioPoll op =>
    if v.word.getLsbD 2 then
      match op with
      | .read _ => goOn x sw [.mdioResult]
      | .write _ _ => goOn x sw [.mdioReadNcrAgain 0]
    else goOn x sw [.mdioPoll op]
  | .mdioResult => goOn x sw [.mdioReadNcrAgain (v.word.setWidth 16)]
  | .mdioReadNcrAgain m => goOn x sw [.mdioDisable m v.word]
  | .mdioDisable m _ => returns x sw (m.setWidth 32)
  -- probe_and_negotiate()
  | .probeId1 => goOn x sw [.mdioReadNcr (.read 2), .probeId2]
  | .probeId2 => goOn x sw [.mdioReadNcr (.read 3), .probeCompare (x.ret.setWidth 16)]
  | .probeCompare id1 =>
    if id1 ++ x.ret.setWidth 16 ≠ c.phyId then returns x sw 0
    else
      match c.lineMode with
      | .rmii => goOn x sw [.collaborator false, .probeAdvertise]
      | .mii => goOn x sw [.probeAdvertise]
  | .probeAdvertise => goOn x sw [.mdioReadNcr (.write 4 (advertiseMask c.autoneg)), .probeControl]
  | .probeControl => goOn x sw [.mdioReadNcr (.read 0), .probeAutoneg]
  | .probeAutoneg => goOn x sw [.collaborator false, .probeWriteBack]
  | .probeWriteBack => goOn x sw [.mdioReadNcr (.write 0 (x.ret.setWidth 16)), .probeStatus]
  | .probeStatus => goOn x sw [.mdioReadNcr (.read 1), .probeLink]
  | .probeLink =>
    if x.ret.getLsbD 2 then goOn x sw [.mdioReadNcr (.read 5), .probePartner]
    else goOn x sw [.mdioReadNcr (.read 1), .probeLink]
  | .probePartner =>
    goOn x sw [.probeConfigure ((v.word &&& 0xC00) ||| resolveBits (advertiseMask c.autoneg &&& x.ret.setWidth 16))]
  | .probeConfigure _ => returns x sw 1
  | .collaborator _ =>
    match d.collaborator with
    | some op => goOn x sw [.mdioReadNcr op, .collaborator true]
    | none => returns x sw (d.phyAnswer.setWidth 32)
  -- init()
  | .initHwReset => goOn x sw [.collaborator false, .initNcr]
  | .initNcr => goOn x sw [.initTsr]
  | .initTsr => goOn x sw [.initRsr]
  | .initRsr => goOn x sw [.initIdr]
  | .initIdr => goOn x sw [.initIsr]
  | .initIsr => goOn x sw [.initUsrio]
  | .initUsrio => goOn x sw [.stationStart, .initReadBack]
  | .initReadBack => goOn x sw [.setupTxWord0 0, .initReadNcfg]
  | .initReadNcfg => goOn x sw [.initNcfg v.word]
  | .initNcfg _ => goOn x sw [.probeId1, .initProbed]
  -- DESIGN CHOICE (log 21): a repeated `init()` that fails leaves the handler of an earlier one registered.
  | .initProbed => if x.ret = 0 then returns x sw 0 else goOn x sw [.initRegister]
  | .initRegister => goOn x sw [.initIer]
  | .initIer => goOn x sw [.initReadNcr]
  | .initReadNcr => goOn x sw [.initEnable v.word]
  | .initEnable _ => returns x sw 1
  -- the station address
  | .stationStart => goOn x sw [.stationBottom sw.stationAddr]
  | .stationBottom a => goOn x sw [.stationTop a]
  | .stationTop _ => returns x sw 0
  | .stationSet a => returns x { sw with stationAddr := a } 0
  -- disable()
  | .disableReadNcr => goOn x sw [.disableNcr v.word]
  | .disableNcr _ => goOn x sw [.disableIdr]
  | .disableIdr => returns x sw 0
  -- handle_event()
  | .eventIsr => goOn x sw [.eventRsr v.word]
  | .eventRsr isr =>
    if isr.getLsbD 1 || v.word.getLsbD 1 then goOn x sw [.eventWake isr] else goOn x sw [.eventTsr isr false]
  | .eventWake isr => goOn x { sw with rxReady := true } [.eventClearRec isr d.needsSwitch]
  | .eventClearRec isr b => goOn x sw [.eventReadRsr isr b]
  | .eventReadRsr isr b => goOn x sw [.eventTsr isr b]
  | .eventTsr isr b =>
    if isr.getLsbD 7 || v.word.getLsbD 5 then goOn x sw [.reclaimTest, .eventClearComp b]
    else returns x sw (boolWord b)
  | .eventClearComp b => goOn x sw [.eventReadTsr b]
  | .eventReadTsr b => returns x sw (boolWord b)

/-! ### Calls -/

/-- Which context makes a call: `HOST_TX` sends, `HOST_RX` receives, and either makes the others (00_scope.md R11;
70_reset_and_hazards.md R653). -/
def mayCall (id : ContextId) (k : Call) : Bool :=
  match id with
  | .isr => false
  | .tx =>
    match k with
    | .access _ | .send _ _ | .init | .disable | .setStationAddress _ | .programStationAddress => true
    | .inputLength | .readNull _ _ | .read _ _ | .waitForInput => false
  | .rx =>
    match k with
    | .access _ | .inputLength | .readNull _ _ | .read _ _ | .waitForInput | .init | .disable | .setStationAddress _
    | .programStationAddress => true
    | .send _ _ => false

/-- What a call leaves: the first line of the procedure, or a return at once (R460: a `send()` of no bytes). -/
def startOf (x : Context) (sw : Software) : Call → Next
  | .access a => goOn x sw [.access a]
  | .send frame isLast => sendLoop x sw { frame := frame, off := 0, rem := BitVec.ofNat 32 frame.length, isLast := isLast }
  | .inputLength => goOn x sw [.lengthStatus]
  | .readNull _ _ => goOn x sw [.readNull]
  | .read len total => goOn x sw [.readCheck { dest := [], len := len, total := total }]
  | .waitForInput => goOn x sw [.waitBlock]
  | .init => goOn x sw [.initHwReset]
  | .disable => goOn x sw [.disableReadNcr]
  | .setStationAddress a => goOn x sw [.stationSet a]
  | .programStationAddress => goOn x sw [.stationStart]

end Sys2Proof.Machine
end

