-- ==== Sys2Proof/Machine/Agents.lean ====
section
/-!
DEFINITION. One step of each agent (00_scope.md R11, R12), and what ends every step: the interrupt line's event
(60_exceptions.md R603) and the next step's draws.
-/

namespace Sys2Proof.Machine

/-! ### The EMAC's agents -/

/-- A decoded command is run; one the decoder refuses is refused. -/
def runDecoded (d : Except DecodeError Instr) (s : State) : Result State :=
  match d with
  | .ok i => exec i s
  | .error e => .refused (refusalOf e)

/-- `TXE` (R300, R304): fetches word 1 at `tx_ptr`, decodes it, runs it. -/
def txeStep (s : State) : Result State :=
  if s.tx.state = .active then andThen (txFetch s) fun w1 => exec (decodeTxd w1) s else .next s

/-- `RXE` (R350, R354): fetches word 0 at `rx_ptr`, decodes it, runs it. -/
def rxeStep (s : State) : Result State :=
  if rxEnabled s && s.rx.state != .idle then andThen (rxFetch s) fun w0 => exec (decodeRxd w0) s else .next s

/-- `MDIO` (R400): runs one MDC period of the frame in progress. -/
def mdioStep (s : State) : Result State :=
  if s.mdio.busy then runDecoded (decodeMan s.mdio.word) s else .next s

/-- `BUS` (R252): removes the head of `pw` and performs it. -/
def busStep (s : State) : Result State :=
  match s.pw with
  | [] => .next s
  | (r, v) :: rest => runDecoded (decodeBus (busCommand true r) v) { s with pw := rest }

/-- `INTC` (R610). -/
def intcStep (s : State) : State := if interruptEnabled s then enterInterrupt s else s

/-! ### The host's contexts -/

/-- A context by its name. -/
def contextOf (s : State) : ContextId → Context
  | .tx => s.hostTx
  | .rx => s.hostRx
  | .isr => s.hostIsr

/-- A context's new place and the software state. An interrupt handler whose stack empties returns from the interrupt
(R611). -/
def putContext (s : State) (id : ContextId) (stack : List Point) (n : Next) : State :=
  let x : Context := { stack := n.push ++ stack, ret := n.ret, data := n.data }
  match id with
  | .tx => { s with sw := n.sw, hostTx := x }
  | .rx => { s with sw := n.sw, hostRx := x }
  | .isr =>
    if x.stack.isEmpty then returnFromInterrupt { s with sw := n.sw } n.ret else { s with sw := n.sw, hostIsr := x }

/-- The other consumer context is inside a critical section (log 14). -/
def otherInCritical (s : State) : ContextId → Bool
  | .tx => inCritical s.hostRx
  | .rx => inCritical s.hostTx
  | .isr => false

/-- A host context may make a call of this kind now: the first action of the host is a call of `init()` (R653). -/
def callAllowed (id : ContextId) (k : Call) (s : State) : Bool := mayCall id k && (s.started || k == .init)

/-- An idle context calls what the environment draws, if it may (R653, R655). -/
def callStep (id : ContextId) (s : State) : Result State :=
  match s.draws.call with
  | none => .next s
  | some k =>
    if callAllowed id k s then
      .next (putContext { s with started := true } id [] (startOf (contextOf s id) s.sw k))
    else .next s

/-- A context takes the line it stands at: it makes the line's access, holds if the access does, and otherwise goes on. -/
def lineStep (id : ContextId) (p : Point) (rest : List Point) (s : State) : Result State :=
  andThen (perform (opOf s.cfg s.sw s.draws p) s) fun answer =>
    match answer with
    | none => .next s
    | some (t, v) => .next (putContext t id rest (nextOf s.cfg s.sw s.draws (contextOf s id) v p))

/-- A host context's step. `HOST_TX` and `HOST_RX` do not run while the handler does (R612); a context does not enter a
critical section while the other is in one (log 14). -/
def hostStep (id : ContextId) (s : State) : Result State :=
  if id != .isr && !isIdle s.hostIsr then .next s
  else
    match (contextOf s id).stack with
    | [] => callStep id s
    | p :: rest => if entersCritical p && otherInCritical s id then .next s else lineStep id p rest s

/-! ### The step -/

/-- The step of an agent; the PHY changes no state of the EMAC (44_mdio.md R420), and `reset` is the environment's reset event
(70_reset_and_hazards.md R650). -/
def agentStep (g : Agent) (s : State) : Result State :=
  match g with
  | .txe => txeStep s
  | .rxe => rxeStep s
  | .mdio => mdioStep s
  | .bus => busStep s
  | .hostTx => hostStep .tx s
  | .hostRx => hostStep .rx s
  | .hostIsr => hostStep .isr s
  | .phy => .next s
  | .medium => .next (mediumStep s)
  | .intc => .next (intcStep s)
  | .reset => .next (platformReset s)

/-- Each change of `irq` is an event (R603). -/
def noteIrq (before : State) (s : State) : State :=
  if irqLine s = irqLine before then s else emit s (.irq (irqLine s))

/-- New draws for the coming step (log 2). -/
def redraw (s : State) : State :=
  { s with draws := Config.freeDraws s.drawCount, drawCount := s.drawCount + 1 }

/-- What ends a step that `before` began. -/
def endStep (before : State) (s : State) : State := redraw (noteIrq before s)

/-! ### Staging one command for the very next step (log 12) -/

/-- The draws with another agent to step. -/
def withAgent (s : State) (g : Agent) : State := { s with draws := { s.draws with agent := g } }

/-- The host is about to make one bus access: no write is posted, no handler runs. -/
def stageAccess (s : State) (x : BusAccess) : State :=
  withAgent { s with pw := [], hostIsr := { s.hostIsr with stack := [] },
                     hostTx := { s.hostTx with stack := [.access x] } } .hostTx

/-- A register operation by its command: a write waits in `pw` for `BUS`, a read is a host access, and a command the decoder
refuses is a host access that is refused. -/
def stageBus (s : State) (w : Nat) : State :=
  let cmd : BusCommand := if w < 512 then BitVec.ofNat 9 w else 0xFC
  let a : Word := s.cfg.emacBase + (cmd.extractLsb' 0 8).setWidth 32
  if cmd.getLsbD 8 then
    match decodeBus cmd 0, regAt (cmd.extractLsb' 0 8) with
    | .ok _, some r => withAgent { s with pw := [(r, 0)] } .bus
    | _, _ => stageAccess s (.store a (leBytes 0))
  else stageAccess s (.load a 4)

/-- A TX descriptor at `tx_ptr`, word 0 zero, with the engine active. -/
def stageTxd (s : State) (w1 : Word) : State :=
  withAgent { s with tx := { s.tx with state := .active },
                     mem := writeWord (writeWord s.mem s.tx.ptr 0) (s.tx.ptr + 4) w1 } .txe

/-- An RX descriptor at `rx_ptr`, word 1 zero, with reception enabled and a frame of one byte being stored if none is. -/
def stageRxd (s : State) (w0 : Word) : State :=
  let f : RxState :=
    match s.rx.state with
    | .idle => .frame { bytes := [0], pos := 0, first := true }
    | .frame g => .frame g
  withAgent { s with regs := { s.regs with ncr := s.regs.ncr ||| 0x4 }, rx := { s.rx with state := f },
                     mem := writeWord (writeWord s.mem s.rx.ptr w0) (s.rx.ptr + 4) 0 } .rxe

/-- A management frame in its last MDC period. -/
def stageMan (s : State) (w : Word) : State :=
  withAgent { s with mdio := { busy := true, word := w, bit := 63 } } .mdio

/-- The command of a table word, staged where the next step takes it. -/
def stage (s : State) (nbits w : Nat) : State :=
  match tableFormat nbits w with
  | .bus9 => stageBus s w
  | .txdW1 => stageTxd s (BitVec.ofNat 32 w)
  | .rxdW0 => stageRxd s (BitVec.ofNat 32 w)
  | .man32 => stageMan s (BitVec.ofNat 32 w)

end Sys2Proof.Machine
end

