-- ==== Sys2Proof/Machine/Step.lean ====
section
/-!
DEFINITION. The machine's step: a configuration outside 00_scope.md R13 and R15 is refused; otherwise the agent the draws
name takes its step (R12).
-/

namespace Sys2Proof.Machine

/-- One step. -/
def step (s : State) : Host.Outcome State Fault Refusal :=
  if configOk s.cfg then andThen (agentStep s.draws.agent s) fun t => .next (endStep s t)
  else .refused .configuration

/-- `s` with the command of a table word placed where `step` fetches its next command (log 12). -/
def State.withFetchWord (s : State) (nbits w : Nat) : State := stage s nbits w

end Sys2Proof.Machine
end

