-- ==== Sys2Proof/WellFormed.lean ====
section
/-!
DEFINITION. When a command is well formed: no reserved register bit is set (10_state.md R64), a queue pointer is
8-aligned (R55, R56), and an owned TX descriptor has a length and no reserved bit (30_encoding.md R219).
-/

namespace Sys2Proof

/-- A command is well formed. -/
def Instr.wf : Instr → Bool
  | .rdNcr => true
  | .wrNcr v => Reg.ncr.accepts v
  | .rdNcfg => true
  | .wrNcfg v => Reg.ncfg.accepts v
  | .rdNsr => true
  | .rdTsr => true
  | .wrTsr v => Reg.tsr.accepts v
  | .rdRbqp => true
  | .wrRbqp v => queueAligned v
  | .rdTbqp => true
  | .wrTbqp v => queueAligned v
  | .rdRsr => true
  | .wrRsr v => Reg.rsr.accepts v
  | .rdIsr => true
  | .wrIer v => Reg.ier.accepts v
  | .wrIdr v => Reg.idr.accepts v
  | .rdImr => true
  | .rdMan => true
  | .wrMan _ => true
  | .rdSa1b => true
  | .wrSa1b _ => true
  | .rdSa1t => true
  | .wrSa1t v => Reg.sa1t.accepts v
  | .rdUsrio => true
  | .wrUsrio v => Reg.usrio.accepts v
  | .txdStop _ _ => true
  | .txdBuf f => f.wf
  | .txdLast f => f.wf
  | .rxdFree _ => true
  | .rxdFull _ => true
  | .mdioRead _ => true
  | .mdioWrite _ => true

end Sys2Proof
end

