-- ==== Sys2Proof/Safety.lean ====
section
/-!
DEFINITION. The terms the claims use: when a step goes wrong, what a run is and when it is fair, the named assumptions on
the PHY, what a step may leave unchanged, and the invariants of the machine and of the rings.
-/

namespace Sys2Proof.Machine

/-! ### Outcomes -/

/-- The step records a fault or a refusal, so the run is not final (70_reset_and_hazards.md R672). -/
def stops {α : Type} (o : Result α) : Bool :=
  match o with
  | .next _ => false
  | .fault _ => true
  | .refused _ => true

/-- The command is a register read. -/
def Instr.isRegRead : Instr → Bool
  | .rdNcr | .rdNcfg | .rdNsr | .rdTsr | .rdRbqp | .rdTbqp | .rdRsr | .rdIsr | .rdImr | .rdMan | .rdSa1b | .rdSa1t
  | .rdUsrio => true
  | .wrNcr _ | .wrNcfg _ | .wrTsr _ | .wrRbqp _ | .wrTbqp _ | .wrRsr _ | .wrIer _ | .wrIdr _ | .wrMan _ | .wrSa1b _
  | .wrSa1t _ | .wrUsrio _ | .txdStop _ _ | .txdBuf _ | .txdLast _ | .rxdFree _ | .rxdFull _ | .mdioRead _
  | .mdioWrite _ => false

/-! ### Runs (00_scope.md R12, 70_reset_and_hazards.md R671) -/

/-- `t` follows `s`: a step with no fault and no refusal leads to `t`, whose draws for the next step are any (log 2). -/
def Follows (s t : State) : Prop := ∃ u, step s = .next u ∧ t = { u with draws := t.draws }

/-- The state is one right after a reset (70_reset_and_hazards.md R650): a power-on, or a platform reset in a run. -/
def AfterReset (s : State) : Prop := (∃ c d, s = State.resetWith c d) ∨ ∃ s0, agentStep .reset s0 = .next s

/-- The agent that is a context's. -/
def agentOf : ContextId → Agent
  | .tx => .hostTx
  | .rx => .hostRx
  | .isr => .hostIsr

/-- An infinite run, with every choice of draws. -/
def IsRun (r : Nat → State) : Prop := ∀ n, Follows (r n) (r (n + 1))

/-- The access holds (R18). -/
def accessHolds (o : Access) : Bool :=
  match o with
  | .next a => a.isNone
  | .fault _ => false
  | .refused _ => false

/-- A host context has an enabled step: it is not kept waiting by the handler (R612), by a critical section (log 14) or by
its access. -/
def hostEnabled (id : ContextId) (s : State) : Bool :=
  (id == .isr || isIdle s.hostIsr) &&
    match (contextOf s id).stack with
    | [] => false
    | p :: _ => !(entersCritical p && otherInCritical s id) && !accessHolds (perform (opOf s.cfg s.sw s.draws p) s)

/-- The agent has an enabled step, by the rule that says when it has (R300, R350, R400, R252, R610, R352, R361). The PHY
may always move (R420), and a reset may always come (R650). -/
def agentEnabled (g : Agent) (s : State) : Bool :=
  match g with
  | .txe => s.tx.state == .active
  | .rxe => rxEnabled s && s.rx.state != .idle
  | .mdio => s.mdio.busy
  | .bus => !s.pw.isEmpty
  | .hostTx => hostEnabled .tx s
  | .hostRx => hostEnabled .rx s
  | .hostIsr => hostEnabled .isr s
  | .phy => true
  | .medium => rxEnabled s
  | .intc => interruptEnabled s
  | .reset => true

/-- Weak fairness for an agent: if it is enabled from some state of the run on, it steps at or after that state. -/
def WeaklyFair (g : Agent) (r : Nat → State) : Prop :=
  ∀ n, (∀ m, n ≤ m → agentEnabled g (r m) = true) → ∃ m, n ≤ m ∧ (r m).draws.agent = g

/-- The agents R671 assumes fair. The medium and the PHY are not assumed fair. -/
def fairAgents : List Agent := [.txe, .rxe, .mdio, .bus, .intc]

/-- A fair run (R671). -/
def FairRun (r : Nat → State) : Prop := IsRun r ∧ ∀ g ∈ fairAgents, WeaklyFair g r

/-- The host contexts are fair too (R12: "every continuously enabled agent eventually steps"); R671 does not name them, so a
claim that needs this says so. -/
def HostsFair (r : Nat → State) : Prop := ∀ g ∈ [Agent.hostTx, .hostRx, .hostIsr], WeaklyFair g r

/-! ### Named assumptions on the PHY (44_mdio.md R423), as properties of what it has answered

The answers of the PHY in a run are the `MdioRead` events of its history; event `i` of a history keeps its place. -/

/-- `PHY_PRESENT`: reads at `PHY_ADDR` of registers 2 and 3 return the two halves of `PHY_ID`. -/
def PhyPresent (c : Config) (es : List Event) : Prop :=
  ∀ v, (Event.mdioRead c.phyAddr 2 v ∈ es → v = c.phyId.extractLsb' 16 16)
    ∧ (Event.mdioRead c.phyAddr 3 v ∈ es → v = c.phyId.extractLsb' 0 16)

/-- `PARTNER(m)`: reads of register 5 at `PHY_ADDR` after link-up, a read of register 1 with bit 2 set, return `m`. -/
def Partner (c : Config) (m : Half) (es : List Event) : Prop :=
  ∀ (i j : Nat) (v w : Half), i < j → es[i]? = some (.mdioRead c.phyAddr 1 v) → v.getLsbD 2 = true →
    es[j]? = some (.mdioRead c.phyAddr 5 w) → w = m

/-- Register 1 at `PHY_ADDR` is read in the run as event `j`, with the answer `w`. -/
def LinkRead (c : Config) (r : Nat → State) (j : Nat) (w : Half) : Prop :=
  ∃ n, (r n).events[j]? = some (.mdioRead c.phyAddr 1 w)

/-- `LINK_EVENTUALLY`: after the write-back of the control register, event `i`, some later read of register 1 at `PHY_ADDR`
has bit 2 set. DEDUCED (log 23): it is an assumption on the answers, so it says nothing of a run that stops reading.
DESIGN CHOICE (log 23): every write frame of register 0 at `PHY_ADDR` counts as that write-back, whoever starts it: the
`mdio_write(0, c)` of R552, a collaborator, or the host's own bus accesses. -/
def LinkEventually (c : Config) (r : Nat → State) : Prop :=
  ∀ (n i : Nat) (v : Half), (r n).events[i]? = some (.mdioWrite c.phyAddr 0 v) → (∀ k, ∃ j w, k ≤ j ∧ LinkRead c r j w) →
    ∃ j w, i < j ∧ LinkRead c r j w ∧ w.getLsbD 2 = true

/-! ### Frames -/

/-- Every byte of system memory reads as before. -/
def SameMemory (s t : State) : Prop := ∀ a, readByte t.mem a = readByte s.mem a

/-- Every byte of system memory outside the `n` bytes from `base` on reads as before. -/
def SameMemoryOutside (s t : State) (base : Word) (n : Nat) : Prop :=
  ∀ a, inSpan a base n = false → readByte t.mem a = readByte s.mem a

/-- The host's side is as before: its contexts, its software state, the posted writes, the handler, the value last read. -/
def SameHost (s t : State) : Prop :=
  t.hostTx = s.hostTx ∧ t.hostRx = s.hostRx ∧ t.hostIsr = s.hostIsr ∧ t.sw = s.sw ∧ t.pw = s.pw ∧ t.handler = s.handler
    ∧ t.rdata = s.rdata

/-- The configuration and the draws are as before. -/
def SameEnvironment (s t : State) : Prop :=
  t.cfg = s.cfg ∧ t.draws = s.draws ∧ t.drawCount = s.drawCount

/-- The stored registers other than the three status registers are as before. -/
def SameControlRegs (s t : State) : Prop :=
  t.regs.ncr = s.regs.ncr ∧ t.regs.ncfg = s.regs.ncfg ∧ t.regs.imask = s.regs.imask ∧ t.regs.man = s.regs.man
    ∧ t.regs.sa1b = s.regs.sa1b ∧ t.regs.sa1t = s.regs.sa1t ∧ t.regs.usrio = s.regs.usrio

/-- The first descriptor of the frame the TX engine's step belongs to (42_tx_engine.md R307, R308). -/
def txFirst (s : State) : Word :=
  match s.tx.frame with
  | none => s.tx.ptr
  | some fr => fr.first

/-- The TX engine processes the descriptor at `tx_ptr` with fields `f` without a refusal or a fault of 42_tx_engine.md
R306. -/
def TxProcessable (f : TxFields) (s : State) : Prop :=
  s.tx.state = .active ∧ TxFields.wf f = true ∧ descriptorOk s.cfg s.tx.ptr = true
    ∧ readWord s.mem s.tx.ptr &&& 0x3 = 0 ∧ admitsRange s.cfg (readWord s.mem s.tx.ptr) f.len.toNat = true

/-- The bytes that descriptor contributes (42_tx_engine.md R304). -/
def txBytes (f : TxFields) (s : State) : List Byte := readBytes s.mem (readWord s.mem s.tx.ptr) f.len.toNat

/-- The frame's bytes with those appended (R307, R308). -/
def txGathered (f : TxFields) (s : State) : List Byte :=
  match s.tx.frame with
  | none => txBytes f s
  | some fr => fr.bytes ++ txBytes f s

/-- `n` steps of one agent with no fault and no refusal. -/
def agentRuns (g : Agent) : Nat → State → State → Prop
  | 0, s, t => s = t
  | n + 1, s, t => ∃ u, agentStep g s = .next u ∧ agentRuns g n u t

/-- An outcome with its next state changed. -/
def mapNext (f : State → State) (o : Result State) : Result State := andThen o fun s => .next (f s)

/-! ### Invariants -/

/-- System memory keeps its canonical form. -/
def MemoryCanonical (s : State) : Prop := Memory.wf s.mem

/-- Both queue bases and both engine pointers are multiples of 8 (10_state.md R71, R72). -/
def PointersAligned (s : State) : Prop :=
  s.tx.base &&& 0x7 = 0 ∧ s.tx.ptr &&& 0x7 = 0 ∧ s.rx.base &&& 0x7 = 0 ∧ s.rx.ptr &&& 0x7 = 0

/-- The reserved bits of every stored register are 0 (10_state.md R51 to R64); `ISR.HRESP` is never set (R58). -/
def ReservedBitsZero (s : State) : Prop :=
  s.regs.ncr &&& ~~~0x1C = 0 ∧ s.regs.ncfg &&& ~~~0xC03 = 0 ∧ s.regs.tsr &&& ~~~0x77 = 0 ∧ s.regs.rsr &&& ~~~0x7 = 0
    ∧ s.regs.isr &&& ~~~0x4FF = 0 ∧ s.regs.imask &&& ~~~0xCFF = 0 ∧ s.regs.sa1t &&& ~~~0xFFFF = 0
    ∧ s.regs.usrio &&& ~~~0x3 = 0

/-- The engines run only while enabled, and an `IDLE` TX engine is at a frame boundary (R51, R70; 42_tx_engine.md R301,
R302, R310 to R312; 43_rx_engine.md R351, R362). -/
def EnginesGated (s : State) : Prop :=
  (s.tx.state = .active → txEnabled s = true) ∧ (s.tx.state = .idle → s.tx.frame = none)
    ∧ (s.rx.state ≠ .idle → rxEnabled s = true)

/-- The frame the RX engine is storing has bytes left, is no longer than the medium may offer, and is at its first buffer
exactly when nothing is stored yet (R72; 43_rx_engine.md R352, R355). -/
def ReceiveFrameOk (s : State) : Prop :=
  match s.rx.state with
  | .idle => True
  | .frame g => g.pos < g.bytes.length ∧ g.bytes.length ≤ s.cfg.rxMaxFrame ∧ (g.first = true ↔ g.pos = 0)
      ∧ g.pos % 128 = 0

/-- A management frame in progress has the port enabled, a legal word and at most 63 periods behind it; no frame in
progress has none (R74; 44_mdio.md R400 to R403, R409). -/
def ManagementOk (s : State) : Prop :=
  (s.mdio.busy = true → mgmtEnabled s = true ∧ manLegal s.mdio.word = true ∧ s.mdio.bit ≤ 63)
    ∧ (s.mdio.busy = false → s.mdio.bit = 0)

/-- Only the line a context stands at may be inside a critical section: no caller is. -/
def CallersOutside (x : Context) : Prop := ∀ p ∈ x.stack.tail, insideCritical p = false

/-- At most one consumer context is inside a critical section, and none is while the interrupt handler runs
(60_exceptions.md R610, R612, R617; 45_sw_transmit.md R457). -/
def CriticalExclusive (s : State) : Prop :=
  ¬(inCritical s.hostTx = true ∧ inCritical s.hostRx = true)
    ∧ (isIdle s.hostIsr = false → inCritical s.hostTx = false ∧ inCritical s.hostRx = false)
    ∧ CallersOutside s.hostTx ∧ CallersOutside s.hostRx

/-! ### The rings (10_state.md R82) -/

/-- In the TX ring exactly the last descriptor carries `WRAP`, bit 30 of its word 1. -/
def TxRingWraps (s : State) : Prop :=
  ∀ i, i < s.cfg.txCount → (readWord s.mem (descTx s.cfg i + 4)).getLsbD 30 = decide (i + 1 = s.cfg.txCount)

/-- In the RX ring exactly the last descriptor carries `WRAP`, bit 1 of its word 0. -/
def RxRingWraps (s : State) : Prop :=
  ∀ i, i < s.cfg.rxCount → (readWord s.mem (descRx s.cfg i)).getLsbD 1 = decide (i + 1 = s.cfg.rxCount)

/-- The ring invariant of R82. -/
def RingsWrap (s : State) : Prop := TxRingWraps s ∧ RxRingWraps s

/-- Each RX descriptor names the buffer bound to it (R80). -/
def RxBuffersBound (s : State) : Prop :=
  ∀ i, i < s.cfg.rxCount → readWord s.mem (descRx s.cfg i) &&& 0xFFFFFFFC = rxBufferAddr s.cfg i

/-- Both engines restart at slot 0 of their rings, and so does every write of a queue pointer that is posted; and both stand
at a slot of their rings. -/
def PointersInRings (s : State) : Prop :=
  s.tx.base = descTx s.cfg 0 ∧ s.rx.base = descRx s.cfg 0
    ∧ (∃ i, i < s.cfg.txCount ∧ s.tx.ptr = descTx s.cfg i) ∧ (∃ i, i < s.cfg.rxCount ∧ s.rx.ptr = descRx s.cfg i)
    ∧ ∀ e ∈ s.pw, (e.1 = .tbqp → e.2 = descTx s.cfg 0) ∧ (e.1 = .rbqp → e.2 = descRx s.cfg 0)

/-- The rings are as R80 to R82 say, and the engines are in them. -/
def RingsOk (s : State) : Prop := RingsWrap s ∧ RxBuffersBound s ∧ PointersInRings s

/-- The cursors of the reference procedures are slots (R85). -/
def CursorsInRings (s : State) : Prop :=
  s.sw.txIndex < s.cfg.txCount ∧ s.sw.txReclaim < s.cfg.txCount ∧ s.sw.rxIndex < s.cfg.rxCount

/-- A word the line holds for writing back to a ring slot carries the slot's `WRAP`, and the slot is in the ring. A store of
a context's own is no line of a procedure. -/
def LineKeepsWrap (c : Config) (sw : Software) : Point → Prop
  | .access (.store _ _) => False
  | .setupTxWord0 i | .setupTxWord1 i => i < c.txCount
  | .setupRxWord0 i | .setupRxWord1 i => i < c.rxCount
  | .reclaimMark w => w.getLsbD 30 = decide (sw.txReclaim + 1 = c.txCount)
  | .lengthSkipReclaim w0 | .readReclaim _ w0 => w0.getLsbD 1 = decide (sw.rxIndex + 1 = c.rxCount)
  | .lengthDropReclaim _ k _ t => k < c.rxCount ∧ t.getLsbD 1 = decide (k + 1 = c.rxCount)
  | .bnaReclaim i w => i < c.rxCount ∧ w.getLsbD 1 = decide (i + 1 = c.rxCount)
  | _ => True

/-- The hardware's invariants together. -/
def HardwareOk (s : State) : Prop :=
  PointersAligned s ∧ ReservedBitsZero s ∧ EnginesGated s ∧ ReceiveFrameOk s ∧ ManagementOk s

end Sys2Proof.Machine
end

