-- ==== Sys2Proof/Certificates/Slice0/Obligations.lean ====
section
/-!
DEFINITION. The statements for the provers. Each docstring names the rules of spec/ its statement formalises.
-/

open Sys2Proof Sys2Proof.Machine

/-! ### Reset -/

/-- 70_reset_and_hazards.md R651: every row of the reset table, after a power-on with any configuration and any first draw and
after a platform reset in any state. -/
def Obligations.ResetGivesTheTableValues : Prop :=
  ∀ s : State, AfterReset s →
    ncrValue s = 0 ∧ s.regs.ncr = 0 ∧ s.regs.ncfg = 0x800 ∧ (nsrValue s).getLsbD 2 = true
      ∧ (nsrValue s).getLsbD 1 = s.draws.word.getLsbD 1 ∧ tsrValue s = 0 ∧ s.regs.tsr = 0 ∧ s.regs.rsr = 0 ∧ s.regs.isr = 0
      ∧ s.regs.imask = 0xCFF ∧ s.regs.man = 0 ∧ s.regs.sa1b = 0 ∧ s.regs.sa1t = 0 ∧ s.regs.usrio = 0
      ∧ s.rx.base = 0 ∧ s.rx.ptr = 0 ∧ s.tx.base = 0 ∧ s.tx.ptr = 0
      ∧ s.tx.state = .idle ∧ s.tx.frame = none ∧ s.rx.state = .idle
      ∧ s.mdio.busy = false ∧ s.mdio.bit = 0 ∧ s.mdio.word = 0 ∧ s.pw = [] ∧ irqLine s = false

/-- 70_reset_and_hazards.md R650 and R652: after a reset no agent of the EMAC has an enabled step, so the turn of each changes
nothing; a platform reset can come in every state, and memory is not reset. That it leaves the host as it was is the
model's choice (log 15). -/
def Obligations.ResetEnablesNoEngine : Prop :=
  (∀ s : State, AfterReset s → ∀ g, g = .txe ∨ g = .rxe ∨ g = .mdio ∨ g = .bus →
    agentEnabled g s = false ∧ agentStep g s = .next s)
  ∧ ∀ s : State, ∃ t, agentStep .reset s = .next t ∧ t.cfg = s.cfg ∧ t.mem = s.mem ∧ t.sw = s.sw ∧ t.hostTx = s.hostTx
      ∧ t.hostRx = s.hostRx ∧ t.hostIsr = s.hostIsr ∧ t.handler = s.handler ∧ t.started = s.started
      ∧ t.events = s.events

/-- 70_reset_and_hazards.md R653: after a power-on every host context is idle, and until a host context has taken its first
action a call of `init()` is the only call that starts anything, in `HOST_TX` or in `HOST_RX` (log 11). -/
def Obligations.FirstHostActionIsInit : Prop :=
  (∀ (c : Config) (d : Draws) (id : ContextId),
    (contextOf (State.resetWith c d) id).stack = [] ∧ (State.resetWith c d).started = false)
  ∧ ∀ (id : ContextId) (s : State), s.started = false → s.hostIsr.stack = [] → (contextOf s id).stack = [] →
    (s.draws.call ≠ some .init → agentStep (agentOf id) s = .next s)
    ∧ (s.draws.call = some .init → id ≠ .isr → ∃ t, agentStep (agentOf id) s = .next t ∧ t.started = true
        ∧ (contextOf t id).stack = [.initHwReset] ∧ t.regs = s.regs ∧ t.pw = s.pw ∧ t.mem = s.mem ∧ t.sw = s.sw)

/-- The machine's invariants hold after reset, for every configuration and every first draw. -/
def Obligations.ResetMeetsTheInvariants : Prop :=
  ∀ (c : Config) (d : Draws), HardwareOk (State.resetWith c d) ∧ CriticalExclusive (State.resetWith c d)
    ∧ MemoryCanonical (State.resetWith c d)

/-! ### Encodings -/

/-- Words written out from 30_encoding.md R202, R212, R217, R220 decode to the commands they stand for. The bytes of the three
`BUS9` commands (the 9 bits in two bytes, then a write's data word) are the model's layout (log 1); R202 gives the bits of the
command and no bytes. -/
def Obligations.WrittenOutWordsDecode : Prop :=
  decode .bus9 [0x24, 0x00] = .ok (.rdIsr, [])
    ∧ decode .bus9 [0x00, 0x01, 0x0C, 0x02, 0x00, 0x00] = .ok (.wrNcr 0x20C, [])
    ∧ decode .bus9 [0x34, 0x01, 0x00, 0x00, 0x8A, 0x60] = .ok (.wrMan 0x608A0000, [])
    ∧ decode .txdW1 [0x24, 0x80, 0x00, 0x40]
        = .ok (.txdLast { len := 36, resLow := 0, resHigh := 0, bex := false, und := false, rle := false, wrap := true }, [])
    ∧ decode .txdW1 [0x40, 0x00, 0x00, 0x00]
        = .ok (.txdBuf { len := 64, resLow := 0, resHigh := 0, bex := false, und := false, rle := false, wrap := false }, [])
    ∧ decode .rxdW0 [0x82, 0x21, 0x00, 0x20] = .ok (.rxdFree { addr := 0x08000860, wrap := true }, [])
    ∧ decode .rxdW0 [0x01, 0x20, 0x00, 0x20] = .ok (.rxdFull { addr := 0x08000800, wrap := false }, [])
    ∧ decode .man32 [0x00, 0x00, 0x8A, 0x60] = .ok (.mdioRead { phya := 1, rega := 2, data := 0 }, [])
    ∧ decode .man32 [0xE1, 0x01, 0x92, 0x50] = .ok (.mdioWrite { phya := 1, rega := 4, data := 0x01E1 }, [])

/-- Decoding an encoded command gives it back, whatever its operands and whatever bytes follow it: no bit of an encoding is
dropped (30_encoding.md R202, R212, R217, R220). The bytes of a `BUS9` command are the model's layout (log 1). -/
def Obligations.DecodeOfEncodeIsIdentity : Prop :=
  ∀ (i : Instr) (rest : List Byte), decode i.format (encode i ++ rest) = .ok (i, rest)

/-- Bytes that decode are the encoding of the command they decode to, in its format: every encoding has one meaning
(30_encoding.md R234). The bytes of a `BUS9` command are the model's layout (log 1). -/
def Obligations.EncodeOfDecodeIsIdentity : Prop :=
  ∀ (fmt : Format) (bytes rest : List Byte) (i : Instr), decode fmt bytes = .ok (i, rest) →
    i.format = fmt ∧ encode i ++ rest = bytes

/-- 41_host_registers.md R279: writes of `NSR`, `ISR` and `IMR`, reads of `IER` and `IDR`, and every command with an offset
the register map does not list are refused, each with its reason, and every other command is decoded. 30_encoding.md R222:
the reserved management encodings are `SOF ≠ 01`, `CODE ≠ 10` and `RW` of 00 or 11, and no other. -/
def Obligations.EncodingsOutsideTheTableAreRefused : Prop :=
  (∀ (cmd : BusCommand) (v : Word),
    let off : BitVec 8 := cmd.extractLsb' 0 8
    let listed := off ∈ ([0x00, 0x04, 0x08, 0x14, 0x18, 0x1C, 0x20, 0x24, 0x28, 0x2C, 0x30, 0x34, 0x98, 0x9C, 0xC0]
      : List (BitVec 8))
    (cmd = 0x108 ∨ cmd = 0x124 ∨ cmd = 0x130 → decodeBus cmd v = .error .readOnlyRegister)
      ∧ (cmd = 0x028 ∨ cmd = 0x02C → decodeBus cmd v = .error .writeOnlyRegister)
      ∧ (¬ listed → decodeBus cmd v = .error .unmappedRegister)
      ∧ (listed → cmd ≠ 0x108 → cmd ≠ 0x124 → cmd ≠ 0x130 → cmd ≠ 0x028 → cmd ≠ 0x02C → ∃ i, decodeBus cmd v = .ok i))
  ∧ ∀ w : Word,
    (decodeMan w = .error .manReserved ↔
      w.extractLsb' 30 2 ≠ 1#2 ∨ w.extractLsb' 16 2 ≠ 2#2 ∨ w.extractLsb' 28 2 = 0#2 ∨ w.extractLsb' 28 2 = 3#2)
    ∧ (manLegal w = false ↔ decodeMan w = .error .manReserved)

/-! ### A step runs the decoded command -/

/-- When the bytes an agent fetches decode to a command, the machine's step is that command's `exec`, ended by the interrupt
line's event and the next draws. The TX engine fetches word 1 at `tx_ptr`, the RX engine word 0 at `rx_ptr`, the MDIO
controller shifts `mdio_word`, `BUS` takes the head of `pw`, and a host context that stands at a register read, a line `RD` of
a procedure or a bus access of its own, reads while `pw` is empty (00_scope.md R12; 42_tx_engine.md R304; 43_rx_engine.md R354;
44_mdio.md R400; 41_host_registers.md R251, R252). The model's own: the bytes of a `BUS9` command (log 1), the draws (log 2),
and that a line's assignments go with its access (log 13). -/
def Obligations.StepRunsTheDecodedCommand : Prop :=
  ∀ (s : State) (i : Instr), configOk s.cfg = true →
    (s.draws.agent = .txe → s.tx.state = .active → s.tx.ptr &&& 0x7 = 0 → admitsRange s.cfg (s.tx.ptr + 4) 4 = true →
      decode .txdW1 (readBytes s.mem (s.tx.ptr + 4) 4) = .ok (i, []) →
      step s = andThen (exec i s) fun t => .next (endStep s t))
    ∧ (s.draws.agent = .rxe → rxEnabled s = true → s.rx.state ≠ .idle → s.rx.ptr &&& 0x7 = 0 →
      admitsRange s.cfg s.rx.ptr 4 = true → decode .rxdW0 (readBytes s.mem s.rx.ptr 4) = .ok (i, []) →
      step s = andThen (exec i s) fun t => .next (endStep s t))
    ∧ (s.draws.agent = .mdio → s.mdio.busy = true → decode .man32 (leBytes s.mdio.word) = .ok (i, []) →
      step s = andThen (exec i s) fun t => .next (endStep s t))
    ∧ (s.draws.agent = .bus → ∀ r v rest, s.pw = (r, v) :: rest →
      decode .bus9 (busBytes (busCommand true r) (leBytes v)) = .ok (i, []) →
      step s = andThen (exec i { s with pw := rest }) fun t => .next (endStep s t))
    ∧ (∀ id p stack, s.draws.agent = agentOf id → id = .isr ∨ isIdle s.hostIsr = true → s.pw = [] →
      (contextOf s id).stack = p :: stack → (entersCritical p && otherInCritical s id) = false →
      ∀ cmd, ((∃ r, opOf s.cfg s.sw s.draws p = .regRead r ∧ cmd = busCommand false r)
          ∨ ∃ a, opOf s.cfg s.sw s.draws p = .bus (.load a 4) ∧ a &&& 0x3 = 0 ∧ touches a 4 s.cfg.emacBase 256 = true
            ∧ cmd = commandAt s.cfg false a) →
      decode .bus9 (busBytes cmd []) = .ok (i, []) →
      step s = andThen (exec i s) fun t => .next (endStep s
        (putContext t id stack (nextOf s.cfg s.sw s.draws (contextOf s id) ⟨t.rdata, leBytes t.rdata⟩ p))))

/-! ### Register reads -/

/-- 41_host_registers.md R254, R256, R259, R261, R263, R265, R270, R273, R275, R277: what each read returns, field by field;
a read changes nothing else. -/
def Obligations.RegisterReadsReturnTheirFields : Prop :=
  ∀ s : State, ReservedBitsZero s →
    let ncr : Word :=
      0#27 ++ BitVec.ofBool (mgmtEnabled s) ++ BitVec.ofBool (txEnabled s) ++ BitVec.ofBool (rxEnabled s) ++ 0#2
    let ncfg : Word :=
      0#20 ++ clkField s.regs.ncfg ++ 0#8 ++ BitVec.ofBool (fullDuplex s) ++ BitVec.ofBool (s.regs.ncfg.getLsbD 0)
    exec .rdNcr s = .next { s with rdata := ncr }
    ∧ exec .rdNcfg s = .next { s with rdata := ncfg }
    ∧ (∃ v, exec .rdTsr s = .next { s with rdata := v } ∧ (v.getLsbD 3 = true ↔ s.tx.state = .active)
        ∧ ∀ k, k ≠ 3 → v.getLsbD k = s.regs.tsr.getLsbD k)
    ∧ exec .rdRbqp s = .next { s with rdata := s.rx.ptr }
    ∧ exec .rdTbqp s = .next { s with rdata := s.tx.ptr }
    ∧ exec .rdRsr s = .next { s with rdata := s.regs.rsr }
    ∧ exec .rdImr s = .next { s with rdata := s.regs.imask }
    ∧ exec .rdSa1b s = .next { s with rdata := s.regs.sa1b }
    ∧ exec .rdSa1t s = .next { s with rdata := s.regs.sa1t }
    ∧ exec .rdUsrio s = .next { s with rdata := s.regs.usrio }

/-- 41_host_registers.md R258 and R271, the two reads with drawn bits: bit 1 of `NSR` is the drawn pin, bit 2 is
`not mdio_busy` and every other bit is 0; `RD MAN` returns `MAN` while no frame is in progress and 32 drawn bits while one is
(44_mdio.md R411). A draw is a free value of the step (log 2). -/
def Obligations.DrawnReadsReturnTheirDraws : Prop :=
  ∀ s : State,
    (∃ v, exec .rdNsr s = .next { s with rdata := v } ∧ v.getLsbD 2 = !s.mdio.busy
      ∧ v.getLsbD 1 = s.draws.word.getLsbD 1 ∧ ∀ k, k ≠ 1 → k ≠ 2 → v.getLsbD k = false)
    ∧ (s.mdio.busy = false → exec .rdMan s = .next { s with rdata := s.regs.man })
    ∧ (s.mdio.busy = true → exec .rdMan s = .next { s with rdata := s.draws.word })

/-- 41_host_registers.md R267: `RD ISR` returns `ISR` and clears it in the same step, `irq` drops, and a second read at once
returns 0. -/
def Obligations.IsrReadReturnsAndClears : Prop :=
  ∀ s : State, ReservedBitsZero s → ∃ t, exec .rdIsr s = .next t
    ∧ t = { s with regs := { s.regs with isr := 0 }, rdata := s.regs.isr } ∧ irqLine t = false
    ∧ exec .rdIsr t = .next { t with rdata := 0 }

/-! ### Register writes, when performed -/

/-- 41_host_registers.md R255 with 42_tx_engine.md R301, R302, R303 and 43_rx_engine.md R362: a performed `WR NCR` is refused
for a reserved bit, faults for clearing `MPE` during a frame, and otherwise stores `RE`, `TE` and `MPE`, stops the engine
whose enable falls, and starts the TX engine on `TSTART` if it is enabled and `IDLE`; nothing else changes. -/
def Obligations.NcrWriteControlsTheEngines : Prop :=
  ∀ (v : Word) (s : State),
    let reserved := v.extractLsb' 0 2 ≠ 0#2 ∨ v.extractLsb' 5 4 ≠ 0#4 ∨ v.extractLsb' 10 22 ≠ 0#22
    let hazard := mgmtEnabled s = true ∧ v.getLsbD 4 = false ∧ s.mdio.busy = true
    (reserved → exec (.wrNcr v) s = .refused .reservedBit)
    ∧ (¬ reserved → hazard → exec (.wrNcr v) s = .fault .mdioDisabledWhileBusy)
    ∧ (¬ reserved → ¬ hazard →
        exec (.wrNcr v) s = .next { s with
          regs := { s.regs with ncr := 0#27 ++ v.extractLsb' 2 3 ++ 0#2 }
          rx := if rxEnabled s = true ∧ v.getLsbD 2 = false then { s.rx with state := .idle } else s.rx
          tx := if txEnabled s = true ∧ v.getLsbD 3 = false then
              { state := .idle, base := s.tx.base, ptr := s.tx.base, frame := none }
            else if v.getLsbD 9 = true ∧ v.getLsbD 3 = true ∧ s.tx.state = .idle then
              { s.tx with state := .active, frame := none }
            else s.tx })

/-- 41_host_registers.md R257, R274, R276 and R278: performed writes of `NCFG`, of the station address and of `USRIO`. -/
def Obligations.ConfigurationWritesStore : Prop :=
  ∀ (v : Word) (s : State),
    let reserved := v.extractLsb' 2 8 ≠ 0#8 ∨ v.extractLsb' 12 20 ≠ 0#20
    let hazard := s.mdio.busy = true ∧ v.extractLsb' 10 2 ≠ s.regs.ncfg.extractLsb' 10 2
    (reserved → exec (.wrNcfg v) s = .refused .reservedBit)
    ∧ (¬ reserved → hazard → exec (.wrNcfg v) s = .fault .mdioClockChangedWhileBusy)
    ∧ (¬ reserved → ¬ hazard → exec (.wrNcfg v) s = .next { s with regs := { s.regs with ncfg := v } })
    ∧ exec (.wrSa1b v) s = .next { s with regs := { s.regs with sa1b := v } }
    ∧ (v.extractLsb' 16 16 ≠ 0#16 → exec (.wrSa1t v) s = .refused .reservedBit)
    ∧ (v.extractLsb' 16 16 = 0#16 → exec (.wrSa1t v) s = .next { s with regs := { s.regs with sa1t := v } })
    ∧ (v.extractLsb' 2 30 ≠ 0#30 → exec (.wrUsrio v) s = .refused .reservedBit)
    ∧ (v.extractLsb' 2 30 = 0#30 → exec (.wrUsrio v) s = .next { s with regs := { s.regs with usrio := v } })

/-- 41_host_registers.md R260 and R266: performed writes of `TSR` and `RSR` are write-one-to-clear, bit by bit; bit 3 of a
`TSR` write is ignored. -/
def Obligations.StatusWritesClearTheWrittenOnes : Prop :=
  ∀ (v : Word) (s : State),
    (v.extractLsb' 7 25 ≠ 0#25 → exec (.wrTsr v) s = .refused .reservedBit)
    ∧ (v.extractLsb' 7 25 = 0#25 → ∃ w, exec (.wrTsr v) s = .next { s with regs := { s.regs with tsr := w } }
        ∧ ∀ k, w.getLsbD k = (s.regs.tsr.getLsbD k && !(v.getLsbD k && decide (k ≠ 3))))
    ∧ (v.extractLsb' 3 29 ≠ 0#29 → exec (.wrRsr v) s = .refused .reservedBit)
    ∧ (v.extractLsb' 3 29 = 0#29 → ∃ w, exec (.wrRsr v) s = .next { s with regs := { s.regs with rsr := w } }
        ∧ ∀ k, w.getLsbD k = (s.regs.rsr.getLsbD k && !v.getLsbD k))

/-- 41_host_registers.md R262 and R264, 20_memory.md R158: performed writes of the queue pointers. -/
def Obligations.QueuePointerWritesSetBaseAndPointer : Prop :=
  ∀ (v : Word) (s : State),
    (v.extractLsb' 0 3 ≠ 0#3 → exec (.wrRbqp v) s = .fault .misalignedQueue
      ∧ exec (.wrTbqp v) s = .fault .misalignedQueue)
    ∧ (v.extractLsb' 0 3 = 0#3 → rxEnabled s = true ∨ s.rx.state ≠ .idle →
        exec (.wrRbqp v) s = .fault .rbqpWriteWhileReceiving)
    ∧ (v.extractLsb' 0 3 = 0#3 → rxEnabled s = false → s.rx.state = .idle →
        exec (.wrRbqp v) s = .next { s with rx := { s.rx with base := v, ptr := v } })
    ∧ (v.extractLsb' 0 3 = 0#3 → s.tx.state = .active → exec (.wrTbqp v) s = .fault .tbqpWriteWhileTransmitting)
    ∧ (v.extractLsb' 0 3 = 0#3 → s.tx.state = .idle →
        exec (.wrTbqp v) s = .next { s with tx := { s.tx with base := v, ptr := v } })

/-- 41_host_registers.md R268 and R269: performed writes of `IER` and `IDR` unmask and mask, source by source. -/
def Obligations.MaskWritesUnmaskAndMask : Prop :=
  ∀ (v : Word) (s : State),
    (v &&& ~~~0xCFF ≠ 0 → exec (.wrIer v) s = .refused .reservedBit ∧ exec (.wrIdr v) s = .refused .reservedBit)
    ∧ (v &&& ~~~0xCFF = 0 →
        (∃ w, exec (.wrIer v) s = .next { s with regs := { s.regs with imask := w } }
          ∧ ∀ k, w.getLsbD k = (s.regs.imask.getLsbD k && !v.getLsbD k))
        ∧ (∃ w, exec (.wrIdr v) s = .next { s with regs := { s.regs with imask := w } }
          ∧ ∀ k, w.getLsbD k = (s.regs.imask.getLsbD k || v.getLsbD k)))

/-- 41_host_registers.md R272 with 44_mdio.md R402 and R404: a performed `WR MAN`. -/
def Obligations.ManWriteStoresOrStartsAFrame : Prop :=
  ∀ (v : Word) (s : State),
    (s.mdio.busy = true → exec (.wrMan v) s = .fault .mdioWriteWhileBusy)
    ∧ (s.mdio.busy = false → mgmtEnabled s = false →
        exec (.wrMan v) s = .next { s with regs := { s.regs with man := v } })
    ∧ (s.mdio.busy = false → mgmtEnabled s = true → decodeMan v = .error .manReserved →
        exec (.wrMan v) s = .refused .manReserved)
    ∧ (s.mdio.busy = false → mgmtEnabled s = true → (∃ i, decodeMan v = .ok i) →
        exec (.wrMan v) s = .next { s with
          regs := { s.regs with man := v }, mdio := { busy := true, word := v, bit := 0 } })

/-! ### The TX engine -/

/-- 42_tx_engine.md R307 (with the advance of R305): `TXD_BUF` appends the buffer's `LEN` bytes to the frame, remembers the
frame's first descriptor, and moves the pointer to the base after `WRAP` and to the next descriptor otherwise. -/
def Obligations.TxdBufGathersAndAdvances : Prop :=
  ∀ (f : TxFields) (s : State), TxProcessable f s → (f.wrap = true ∨ s.tx.ptr ≠ 0xFFFFFFF8) →
    exec (.txdBuf f) s = .next { s with tx := { s.tx with
      ptr := if f.wrap then s.tx.base else s.tx.ptr + 8
      frame := some { first := txFirst s, bytes := txGathered f s } } }

/-- 42_tx_engine.md R308, R312, R315 and R316: `TXD_LAST` with the medium's outcome `o` emits the frame, sets `USED` and the
error bit in word 1 of the frame's first descriptor, records the status, and goes on after a delivery or stops after an error,
the pointer as `TX_ERR_PTR` says. The one form left out is an advance past the top of the address space, which faults
(`TxPointerDoesNotPassTheTop`); an error with `RESET_TO_BASE` does not advance. -/
def Obligations.TxdLastCompletesTheFrame : Prop :=
  ∀ (f : TxFields) (s : State) (o : TxOutcome), TxProcessable f s → descriptorOk s.cfg (txFirst s) = true →
    o = mediumOutcome (fullDuplex s) s.draws.outcome →
    (f.wrap = true ∨ s.tx.ptr ≠ 0xFFFFFFF8 ∨ ((o = .und ∨ o = .rle) ∧ s.cfg.txErrPtr = .resetToBase)) →
    let next := if f.wrap then s.tx.base else s.tx.ptr + 8
    let afterError := match s.cfg.txErrPtr with
      | .resetToBase => s.tx.base
      | .hold => next
    let w1 := readWord s.mem (txFirst s + 4)
    ∃ t, exec (.txdLast f) s = .next t
      ∧ t.events = s.events ++ [.txFrame (txGathered f s) o]
      ∧ t.tx.base = s.tx.base ∧ t.tx.frame = none
      ∧ (o = .ok → readWord t.mem (txFirst s + 4) = w1 ||| 0x80000000 ∧ t.regs.tsr = s.regs.tsr ||| 0x20
          ∧ t.regs.isr = s.regs.isr ||| 0x80 ∧ t.tx.state = .active ∧ t.tx.ptr = next)
      ∧ (o = .okCol → readWord t.mem (txFirst s + 4) = w1 ||| 0x80000000 ∧ t.regs.tsr = s.regs.tsr ||| 0x22
          ∧ t.regs.isr = s.regs.isr ||| 0x80 ∧ t.tx.state = .active ∧ t.tx.ptr = next)
      ∧ (o = .und → readWord t.mem (txFirst s + 4) = w1 ||| 0x90000000 ∧ t.regs.tsr = s.regs.tsr ||| 0x40
          ∧ t.regs.isr = s.regs.isr ||| 0x10 ∧ t.tx.state = .idle ∧ t.tx.ptr = afterError)
      ∧ (o = .rle → readWord t.mem (txFirst s + 4) = w1 ||| 0xA0000000 ∧ t.regs.tsr = s.regs.tsr ||| 0x04
          ∧ t.regs.isr = s.regs.isr ||| 0x20 ∧ t.tx.state = .idle ∧ t.tx.ptr = afterError)

/-- 42_tx_engine.md R314: in full duplex the medium's outcome is `OK` or `UND`; in half duplex it is `OK`, `OK_COL`, `UND` or
`RLE`; and each of these is some draw's outcome. -/
def Obligations.MediumOutcomesAreTheAllowedOnes : Prop :=
  (∀ o, (∃ d, mediumOutcome true d = o) ↔ o = .ok ∨ o = .und)
  ∧ (∀ o, (∃ d, mediumOutcome false d = o) ↔ o = .ok ∨ o = .okCol ∨ o = .und ∨ o = .rle)

/-- 42_tx_engine.md R310: `TXD_STOP` at a frame boundary goes `IDLE` and records `UBR`. R311: in the middle of a frame it emits
the truncated frame, sets `USED` and `BEX` in the first descriptor's word 1, records `BEX`, and leaves the pointer as
`TX_ERR_PTR` says. -/
def Obligations.TxdStopEndsARunOrCutsAFrame : Prop :=
  ∀ (last : Bool) (f : TxFields) (s : State), s.tx.state = .active →
    (s.tx.frame = none →
      exec (.txdStop last f) s = .next { s with
        regs := { s.regs with tsr := s.regs.tsr ||| 0x01, isr := s.regs.isr ||| 0x08 }
        tx := { s.tx with state := .idle } })
    ∧ ∀ fr, s.tx.frame = some fr → descriptorOk s.cfg fr.first = true →
      ∃ t, exec (.txdStop last f) s = .next t
        ∧ t.events = s.events ++ [.txFrame fr.bytes .bex]
        ∧ readWord t.mem (fr.first + 4) = readWord s.mem (fr.first + 4) ||| 0x80000000 ||| 0x08000000
        ∧ t.regs.tsr = s.regs.tsr ||| 0x10 ∧ t.regs.isr = s.regs.isr ||| 0x40
        ∧ t.tx.state = .idle ∧ t.tx.frame = none ∧ t.tx.base = s.tx.base
        ∧ (s.cfg.txErrPtr = .resetToBase → t.tx.ptr = s.tx.base)
        ∧ (s.cfg.txErrPtr = .hold → t.tx.ptr = s.tx.ptr)

/-- 42_tx_engine.md R304 and R306, 20_memory.md R157: the checks on an owned descriptor, in their order, for both forms; and
the fetch of word 1, which faults where the memory refuses it. That a descriptor must be 8-aligned with both words admitted
is the model's reading (log 7). -/
def Obligations.OwnedTxDescriptorsAreChecked : Prop :=
  ∀ (f : TxFields) (s : State), s.tx.state = .active →
    let reserved := f.len = 0 ∨ f.resLow ≠ 0 ∨ f.resHigh ≠ 0
    let bad := descriptorOk s.cfg s.tx.ptr = false ∨ (readWord s.mem s.tx.ptr).extractLsb' 0 2 ≠ 0#2
      ∨ ∃ k, k < f.len.toNat ∧ admits s.cfg ((readWord s.mem s.tx.ptr).toNat + k) = false
    (reserved → exec (.txdBuf f) s = .refused .txDescriptorReserved
      ∧ exec (.txdLast f) s = .refused .txDescriptorReserved)
    ∧ (¬ reserved → bad → exec (.txdBuf f) s = .fault .misalignedDma ∧ exec (.txdLast f) s = .fault .misalignedDma)
    ∧ ((∃ k, k < 4 ∧ admits s.cfg ((s.tx.ptr + 4).toNat + k) = false) ∨ s.tx.ptr &&& 0x7 ≠ 0 →
      agentStep .txe s = .fault .misalignedDma)

/-- 20_memory.md R159, 42_tx_engine.md R305 and R315: at the top of the address space, without `WRAP`, `TXD_BUF` faults, and so
does `TXD_LAST` after every outcome whose pointer advances: a delivery, or an error with `HOLD`. -/
def Obligations.TxPointerDoesNotPassTheTop : Prop :=
  ∀ (f : TxFields) (s : State), TxProcessable f s → f.wrap = false → s.tx.ptr = 0xFFFFFFF8 →
    let o := mediumOutcome (fullDuplex s) s.draws.outcome
    exec (.txdBuf f) s = .fault .queueWrapOverflow
    ∧ (descriptorOk s.cfg (txFirst s) = true → o = .ok ∨ o = .okCol ∨ s.cfg.txErrPtr = .hold →
        exec (.txdLast f) s = .fault .queueWrapOverflow)

/-- What the three TX descriptor forms leave unchanged. 42_tx_engine.md R318: they write only word 1 of the frame's first
descriptor, only the bits `USED`, `BEX`, `UND` and `RLE`, and never clear a bit. The control registers, `RSR`, the RX engine,
the MDIO controller, the queue base, the host's side and the environment are as before; and, for `TXD_BUF`, every byte of
memory, every register and the history. -/
def Obligations.TxFormsLeaveTheRestAlone : Prop :=
  ∀ (i : Instr) (s t : State), i.format = .txdW1 → exec i s = .next t →
    SameMemoryOutside s t (txFirst s + 4) 4
    ∧ (∃ m : Word, readWord t.mem (txFirst s + 4) = readWord s.mem (txFirst s + 4) ||| m ∧ m &&& ~~~0xB8000000 = 0)
    ∧ SameControlRegs s t ∧ t.regs.rsr = s.regs.rsr ∧ t.rx = s.rx ∧ t.mdio = s.mdio ∧ t.tx.base = s.tx.base
    ∧ SameHost s t ∧ SameEnvironment s t
    ∧ ((∃ f, i = .txdBuf f) → SameMemory s t ∧ t.regs = s.regs ∧ t.events = s.events)

/-- 42_tx_engine.md R300, 43_rx_engine.md R350, 44_mdio.md R400: an engine that has no enabled step holds. That its command,
were it run, then changes nothing is the model's reading (log 10). -/
def Obligations.DisabledEnginesHold : Prop :=
  ∀ (i : Instr) (s : State),
    (i.format = .txdW1 → s.tx.state = .idle → exec i s = .next s)
    ∧ (i.format = .rxdW0 → (rxEnabled s = false ∨ s.rx.state = .idle) → exec i s = .next s)
    ∧ (i.format = .man32 → s.mdio.busy = false → exec i s = .next s)

/-! ### The RX engine -/

/-- 43_rx_engine.md R355 to R358: `RXD_FREE` writes the data, the drawn tail, word 1 and word 0, in that order, moves the
pointer, and completes the frame with its last byte. -/
def Obligations.RxdFreeFillsABuffer : Prop :=
  ∀ (f : RxFields) (s : State) (g : RxFrame), s.rx.state = .frame g → rxEnabled s = true →
    admitsRange s.cfg (f.addr ++ 0#2) 128 = true → descriptorOk s.cfg s.rx.ptr = true →
    (f.wrap = true ∨ s.rx.ptr ≠ 0xFFFFFFF8) →
    let a : Word := f.addr ++ 0#2
    let n := min 128 (g.bytes.length - g.pos)
    let last := decide (g.pos + n = g.bytes.length)
    let w1 : Word := (if last then BitVec.ofNat 32 g.bytes.length else 0) ||| (if g.first then 0x4000 else 0)
      ||| (if last then 0x8000 else 0)
    let p := if f.wrap then s.rx.base else s.rx.ptr + 8
    exec (.rxdFree f) s = .next { s with
      mem := writeWord (writeWord (writeBytes (writeBytes s.mem a ((g.bytes.drop g.pos).take n)) (a + BitVec.ofNat 32 n)
          (s.draws.tail.toList.drop n)) (s.rx.ptr + 4) w1) s.rx.ptr (rxWord false f ||| 1)
      regs := if last then { s.regs with rsr := s.regs.rsr ||| 0x2, isr := s.regs.isr ||| 0x2 } else s.regs
      rx := { s.rx with
        state := if last then .idle else .frame { bytes := g.bytes, pos := g.pos + n, first := false }
        ptr := p } }

/-- 20_memory.md R169 (1): after the engine has filled a buffer that does not overlap its descriptor, the descriptor's word 0
reads with `OWN = 1`, and word 1 and the buffer read what the engine wrote: the frame's bytes from `pos` on, then the drawn
tail. -/
def Obligations.FilledBufferIsPublished : Prop :=
  ∀ (f : RxFields) (s t : State) (g : RxFrame), s.rx.state = .frame g → rxEnabled s = true →
    exec (.rxdFree f) s = .next t →
    let a : Word := f.addr ++ 0#2
    let n := min 128 (g.bytes.length - g.pos)
    (∀ x, inSpan x a 128 = true → inSpan x s.rx.ptr 8 = false) →
    (readWord t.mem s.rx.ptr).getLsbD 0 = true
    ∧ readWord t.mem s.rx.ptr = rxWord true f
    ∧ readWord t.mem (s.rx.ptr + 4) = rxStatusWord g.bytes.length g.first (decide (g.pos + n = g.bytes.length))
    ∧ readBytes t.mem a n = (g.bytes.drop g.pos).take n
    ∧ readBytes t.mem (a + BitVec.ofNat 32 n) (128 - n) = s.draws.tail.toList.drop n

/-- 43_rx_engine.md R364: one step of the RX engine writes only the buffer and the descriptor it owns, sets `OWN` and never
clears it, and keeps `WRAP` and the address; where it meets a descriptor it does not own it writes nothing. -/
def Obligations.RxEngineWritesOnlyWhatItOwns : Prop :=
  ∀ (s t : State), agentStep .rxe s = .next t →
    let w0 := readWord s.mem s.rx.ptr
    (w0.getLsbD 0 = true → SameMemory s t)
    ∧ (∀ x, inSpan x (w0 &&& 0xFFFFFFFC) 128 = false → inSpan x s.rx.ptr 8 = false → readByte t.mem x = readByte s.mem x)
    ∧ (readWord t.mem s.rx.ptr = w0 ∨ readWord t.mem s.rx.ptr = w0 ||| 1)

/-- 43_rx_engine.md R360: `RXD_FULL` records `BNA`, drops the frame in progress and leaves the pointer and memory alone. -/
def Obligations.RxdFullDropsTheFrame : Prop :=
  ∀ (f : RxFields) (s : State) (g : RxFrame), s.rx.state = .frame g → rxEnabled s = true →
    exec (.rxdFull f) s = .next { s with
      regs := { s.regs with rsr := s.regs.rsr ||| 0x1, isr := s.regs.isr ||| 0x4 }, rx := { s.rx with state := .idle } }

/-- 43_rx_engine.md R354, R355 and R357, 20_memory.md R157 and R159: where `RXD_FREE` faults, and where the fetch of word 0
does. That a descriptor must be 8-aligned with both words admitted is the model's reading (log 7). -/
def Obligations.RxdFreeFaults : Prop :=
  ∀ (f : RxFields) (s : State) (g : RxFrame), s.rx.state = .frame g → rxEnabled s = true →
    ((∃ k, k < 128 ∧ admits s.cfg ((f.addr ++ 0#2 : Word).toNat + k) = false) ∨ descriptorOk s.cfg s.rx.ptr = false →
      exec (.rxdFree f) s = .fault .misalignedDma)
    ∧ (admitsRange s.cfg (f.addr ++ 0#2) 128 = true → descriptorOk s.cfg s.rx.ptr = true → f.wrap = false →
      s.rx.ptr = 0xFFFFFFF8 → exec (.rxdFree f) s = .fault .queueWrapOverflow)
    ∧ ((∃ k, k < 4 ∧ admits s.cfg (s.rx.ptr.toNat + k) = false) ∨ s.rx.ptr &&& 0x7 ≠ 0 →
      agentStep .rxe s = .fault .misalignedDma)

/-- What the two RX descriptor forms leave unchanged. `RXD_FREE` stores to the buffer its address field names and to the
descriptor at `rx_ptr`; `RXD_FULL` stores nothing. -/
def Obligations.RxFormsLeaveTheRestAlone : Prop :=
  ∀ (f : RxFields) (s t : State),
    (exec (.rxdFree f) s = .next t →
      ∀ x, inSpan x (f.addr ++ 0#2) 128 = false → inSpan x s.rx.ptr 8 = false → readByte t.mem x = readByte s.mem x)
    ∧ (exec (.rxdFull f) s = .next t → SameMemory s t)
    ∧ (exec (.rxdFree f) s = .next t ∨ exec (.rxdFull f) s = .next t →
      SameControlRegs s t ∧ t.regs.tsr = s.regs.tsr ∧ t.tx = s.tx ∧ t.mdio = s.mdio ∧ t.rx.base = s.rx.base
      ∧ SameHost s t ∧ SameEnvironment s t ∧ t.events = s.events)

/-- 43_rx_engine.md R352 and R361: the medium offers a frame of 1 to `RX_MAX_FRAME` bytes to an `IDLE` engine, overruns one
that is storing a frame, without touching that frame, and does nothing while reception is disabled. -/
def Obligations.MediumOffersAndOverruns : Prop :=
  ∀ s : State,
    (rxEnabled s = false → agentStep .medium s = .next s)
    ∧ (rxEnabled s = true → s.rx.state = .idle → 1 ≤ s.draws.frame.length → s.draws.frame.length ≤ s.cfg.rxMaxFrame →
        agentStep .medium s = .next { s with
          rx := { s.rx with state := .frame { bytes := s.draws.frame, pos := 0, first := true } }
          events := s.events ++ [.rxOffered s.draws.frame] })
    ∧ (rxEnabled s = true → s.rx.state ≠ .idle → 1 ≤ s.draws.frame.length → s.draws.frame.length ≤ s.cfg.rxMaxFrame →
        agentStep .medium s = .next { s with
          regs := { s.regs with rsr := s.regs.rsr ||| 0x4, isr := s.regs.isr ||| 0x400 }
          events := s.events ++ [.rxOffered s.draws.frame] })

/-! ### The MDIO controller -/

/-- 44_mdio.md R409, R410, R413 and R414: the step with `mdio_bit = 63` completes the frame. After a read, `MAN[15:0]` is the
PHY's answer and `MAN[31:16]` is drawn; after a write, all of `MAN` is drawn; `IDLE` reads 1 and `MFD` is recorded. R406: the
steps before it change only `mdio_bit`. -/
def Obligations.ManagementFramesCountAndComplete : Prop :=
  ∀ (f : ManFields) (s : State), s.mdio.busy = true →
    (s.mdio.bit < 63 →
      exec (.mdioRead f) s = .next { s with mdio := { s.mdio with bit := s.mdio.bit + 1 } }
      ∧ exec (.mdioWrite f) s = .next { s with mdio := { s.mdio with bit := s.mdio.bit + 1 } })
    ∧ (s.mdio.bit = 63 →
      exec (.mdioRead f) s = .next { s with
        regs := { s.regs with man := s.draws.word.extractLsb' 16 16 ++ s.draws.phyAnswer, isr := s.regs.isr ||| 0x1 }
        mdio := { s.mdio with busy := false, bit := 0 }
        events := s.events ++ [.mdioRead f.phya f.rega s.draws.phyAnswer] }
      ∧ exec (.mdioWrite f) s = .next { s with
        regs := { s.regs with man := s.draws.word, isr := s.regs.isr ||| 0x1 }
        mdio := { s.mdio with busy := false, bit := 0 }
        events := s.events ++ [.mdioWrite f.phya f.rega f.data] })

/-- 30_encoding.md R223, 44_mdio.md R401, R405, R407 and R408: the wire. The controller drives 32 bits of 1 and then the bits
of a write frame from bit 31 down to bit 0, the start `01`, the opcode and the turnaround `10` among them; of a read frame it
drives the bits before the turnaround and releases the line, nobody drives period 46, the PHY drives 0 in period 47 and its
16 data bits, most significant first, and the bits sampled are those the completion puts into `MAN[15:0]`. While `MPE = 0` the
pin is not driven and MDC is held. The model's choices (log 22): the pins are functions of the state, the period at hand being
`mdio_bit` (R406; 10_state.md R74), and MDC is not held while `MPE = 1`, between frames too. -/
def Obligations.ManagementFrameOnTheWire : Prop :=
  (∀ w : Word, manLegal w = true →
    (∀ k, k < 32 → controllerDrives w k = some true)
    ∧ controllerDrives w 32 = some false ∧ controllerDrives w 33 = some true
    ∧ controllerDrives w 34 = some (isReadFrame w) ∧ controllerDrives w 35 = some (!isReadFrame w)
    ∧ (∀ k, 32 ≤ k → k < 46 → controllerDrives w k = some (w.getLsbD (63 - k)))
    ∧ (isReadFrame w = false →
      controllerDrives w 46 = some true ∧ controllerDrives w 47 = some false
      ∧ (∀ k, 48 ≤ k → k < 64 → controllerDrives w k = some (w.getLsbD (63 - k))) ∧ ∀ v k, phyDrives w v k = none)
    ∧ (isReadFrame w = true →
      (∀ k, 46 ≤ k → controllerDrives w k = none)
      ∧ ∀ v, lineBit w v 46 = none ∧ lineBit w v 47 = some false
        ∧ ∀ k, 48 ≤ k → k < 64 → lineBit w v k = some (v.getLsbD (63 - k))))
  ∧ ∀ s : State,
    (mgmtEnabled s = false → mdioPin s = none ∧ mdcHeld s = true)
    ∧ (mgmtEnabled s = true → mdcHeld s = false)
    ∧ (mgmtEnabled s = true → s.mdio.busy = true → mdioPin s = controllerDrives s.mdio.word s.mdio.bit)
    ∧ (s.mdio.busy = true → s.mdio.bit = 63 → isReadFrame s.mdio.word = true → ∀ f, ∃ t, exec (.mdioRead f) s = .next t
        ∧ ∀ j, j < 16 →
          (sampledBits s.mdio.word s.draws.phyAnswer)[j]? = some (some (t.regs.man.getLsbD (15 - j))))

/-- 44_mdio.md R405, R406 and R409: a frame that has just started completes after exactly 64 steps of the controller, and not
before. -/
def Obligations.ManagementFrameTakes64Steps : Prop :=
  ∀ s : State, s.mdio.busy = true → s.mdio.bit = 0 → manLegal s.mdio.word = true →
    (∀ n t, n < 64 → agentRuns .mdio n s t → t.mdio.busy = true)
    ∧ ∃ t, agentRuns .mdio 64 s t ∧ t.mdio.busy = false ∧ t.mdio.bit = 0 ∧ t.regs.isr.getLsbD 0 = true
      ∧ SameMemory s t ∧ t.tx = s.tx ∧ t.rx = s.rx

/-- What the management frames leave unchanged. -/
def Obligations.ManagementFramesLeaveTheRestAlone : Prop :=
  ∀ (f : ManFields) (s t : State), exec (.mdioRead f) s = .next t ∨ exec (.mdioWrite f) s = .next t →
    SameMemory s t ∧ t.regs.ncr = s.regs.ncr ∧ t.regs.ncfg = s.regs.ncfg ∧ t.regs.tsr = s.regs.tsr
    ∧ t.regs.rsr = s.regs.rsr ∧ t.regs.imask = s.regs.imask ∧ t.regs.sa1b = s.regs.sa1b ∧ t.regs.sa1t = s.regs.sa1t
    ∧ t.regs.usrio = s.regs.usrio ∧ t.tx = s.tx ∧ t.rx = s.rx ∧ t.mdio.word = s.mdio.word
    ∧ SameHost s t ∧ SameEnvironment s t

/-- What the register operations leave unchanged: system memory, the history, the host's contexts and software, the FIFO and
the environment, for all 25; for a read, also both engines, the controller and every stored register but `ISR`, which only
`RD ISR` changes. -/
def Obligations.RegisterOperationsLeaveTheRestAlone : Prop :=
  ∀ (i : Instr) (s t : State), i.format = .bus9 → exec i s = .next t →
    SameMemory s t ∧ t.events = s.events ∧ t.hostTx = s.hostTx ∧ t.hostRx = s.hostRx ∧ t.hostIsr = s.hostIsr
    ∧ t.sw = s.sw ∧ t.pw = s.pw ∧ t.handler = s.handler ∧ SameEnvironment s t
    ∧ (Instr.isRegRead i = true → t.tx = s.tx ∧ t.rx = s.rx ∧ t.mdio = s.mdio
        ∧ t.regs = { s.regs with isr := t.regs.isr } ∧ (i ≠ .rdIsr → t.regs = s.regs))
    ∧ (Instr.isRegRead i = false → t.rdata = s.rdata)

/-! ### Interrupts -/

/-- 60_exceptions.md R603: `irq` is 1 exactly while some implemented cause is pending and not masked. -/
def Obligations.IrqIsAnUnmaskedPendingCause : Prop :=
  ∀ s : State, irqLine s = true ↔
    ∃ k, (k < 8 ∨ k = 10 ∨ k = 11) ∧ s.regs.isr.getLsbD k = true ∧ s.regs.imask.getLsbD k = false

/-- 60_exceptions.md R603 and 00_scope.md R18: every step only appends to the history; it appends one `Irq` event, with the
new level, if the level changed, and none otherwise. -/
def Obligations.IrqChangesAreEvents : Prop :=
  ∀ s t : State, step s = .next t →
    ∃ es : List Event, (∀ e ∈ es, ∀ l, e ≠ .irq l) ∧
      t.events = s.events ++ es ++ (if irqLine t = irqLine s then [] else [.irq (irqLine t)])

/-- 60_exceptions.md R610: `INTC` starts the handler exactly when `irq = 1`, a handler is registered, no consumer context is
inside a critical section and the handler is not running; entry changes nothing else. R612: while the handler runs, `HOST_TX`
and `HOST_RX` take no step. -/
def Obligations.InterruptEntryStartsTheHandler : Prop :=
  ∀ s : State,
    let may := irqLine s = true ∧ s.handler = true ∧ inCritical s.hostTx = false ∧ inCritical s.hostRx = false
      ∧ s.hostIsr.stack = []
    (may → agentStep .intc s = .next { s with hostIsr := { s.hostIsr with stack := [.eventIsr] } })
    ∧ (¬ may → agentStep .intc s = .next s)
    ∧ (s.hostIsr.stack ≠ [] → agentStep .hostTx s = .next s ∧ agentStep .hostRx s = .next s)

/-- 10_state.md R54, R57 and R58: no command clears a status bit but the one the spec names for it: `WR TSR` for `TSR`,
`WR RSR` for `RSR`, `RD ISR` for `ISR`. -/
def Obligations.StatusBitsAreSticky : Prop :=
  ∀ (i : Instr) (s t : State), exec i s = .next t →
    ((∀ v, i ≠ .wrTsr v) → ∀ k, s.regs.tsr.getLsbD k = true → t.regs.tsr.getLsbD k = true)
    ∧ ((∀ v, i ≠ .wrRsr v) → ∀ k, s.regs.rsr.getLsbD k = true → t.regs.rsr.getLsbD k = true)
    ∧ (i ≠ .rdIsr → ∀ k, s.regs.isr.getLsbD k = true → t.regs.isr.getLsbD k = true)

/-- 10_state.md R63 and 41_host_registers.md R278: no command but its own read and write depends on `USRIO`: with another
value there, each does the same and keeps that value. -/
def Obligations.UsrioInfluencesNothing : Prop :=
  ∀ (i : Instr) (s : State) (u : Word), i ≠ .rdUsrio → (∀ v, i ≠ .wrUsrio v) →
    exec i { s with regs := { s.regs with usrio := u } }
      = mapNext (fun t => { t with regs := { t.regs with usrio := u } }) (exec i s)

/-! ### The host's accesses -/

/-- 41_host_registers.md R252: issuing a write appends it to `pw` and changes nothing else; a command the register map refuses
is refused at issue (R279), and no value is checked before the write is performed. R251 and R253: a register read holds while
a posted write is outstanding, so when it answers, every write issued before it has been performed. -/
def Obligations.WritesArePostedAndReadsWait : Prop :=
  ∀ (r : Reg) (v : Word) (s : State),
    (r ≠ .nsr → r ≠ .isr → r ≠ .imr →
      perform (.regWrite r v) s = .next (some ({ s with pw := s.pw ++ [(r, v)] }, HostValue.nothing)))
    ∧ (r = .nsr ∨ r = .isr ∨ r = .imr → perform (.regWrite r v) s = .refused .readOnlyRegister)
    ∧ (r ≠ .ier → r ≠ .idr → s.pw ≠ [] → perform (.regRead r) s = .next none)
    ∧ (r = .ier ∨ r = .idr → perform (.regRead r) s = .refused .writeOnlyRegister)
    ∧ ∀ t x, perform (.regRead r) s = .next (some (t, x)) → s.pw = []

/-- 20_memory.md R160 and R156: a host access that touches the register window, or a descriptor word, and is not an aligned
32-bit access is refused; and so is a byte access of `LDB` or `STB` to either, however many bytes the line has
(30_encoding.md R232). That each byte of `LDB` and `STB` is an access of its own, also of four aligned bytes, is the model's
reading (log 13), and which of two reasons is given first is its choice (log 18). -/
def Obligations.NarrowAccessesAreRefused : Prop :=
  ∀ (a : Word) (n : Nat) (bs : List Byte) (s : State), bs.length = n →
    (touches a n s.cfg.emacBase 256 = true →
      perform (.loadBytes a n) s = .refused .registerWidth ∧ perform (.storeBytes a bs) s = .refused .registerWidth
      ∧ (n ≠ 4 ∨ a.extractLsb' 0 2 ≠ 0#2 →
        hostBus (.load a n) s = .refused .registerWidth ∧ hostBus (.store a bs) s = .refused .registerWidth))
    ∧ (touches a n s.cfg.emacBase 256 = false → isDescriptorAccess s.cfg a n = true →
      perform (.loadBytes a n) s = .refused .descriptorWidth ∧ perform (.storeBytes a bs) s = .refused .descriptorWidth
      ∧ (n ≠ 4 ∨ a.extractLsb' 0 2 ≠ 0#2 →
        hostBus (.load a n) s = .refused .descriptorWidth ∧ hostBus (.store a bs) s = .refused .descriptorWidth))

/-- 20_memory.md R164: a byte a host load reads inside the buffer of a hardware-owned RX descriptor is a draw, a byte of a
descriptor word among them; every other byte is the one in memory; the load changes nothing. That the buffer is the one the
descriptor's word 0 names (30_encoding.md R214), and not the one R80 binds to the slot, is the model's choice (log 8). A draw
is a free value of the step (log 2). -/
def Obligations.HardwareOwnedBufferReadsAreDraws : Prop :=
  ∀ (a : Word) (n : Nat) (s : State), (isDescriptorAccess s.cfg a n = false ∨ n = 4 ∧ a &&& 0x3 = 0) →
    ∃ v, hostLoad a n s = .next (some (s, v)) ∧ v.bytes.length = n ∧ v.word = wordOfBytes v.bytes ∧
      ∀ k, k < n →
        ((∃ i, i < s.cfg.rxCount ∧ (readWord s.mem (descRx s.cfg i)).getLsbD 0 = false
            ∧ inSpan (a + BitVec.ofNat 32 k) (readWord s.mem (descRx s.cfg i) &&& 0xFFFFFFFC) 128 = true) →
          v.bytes[k]? = some (drawByte s k))
        ∧ ((∀ i, i < s.cfg.rxCount → (readWord s.mem (descRx s.cfg i)).getLsbD 0 = false →
            inSpan (a + BitVec.ofNat 32 k) (readWord s.mem (descRx s.cfg i) &&& 0xFFFFFFFC) 128 = false) →
          v.bytes[k]? = some (readByte s.mem (a + BitVec.ofNat 32 k)))

/-- 20_memory.md R165 and R166: where a host store faults, the store is still performed; a store that breaks no ownership
performs exactly the store. The model's choices: the fault carries the state with the store made (log 8), the buffer of a
TX descriptor is the larger of `TX_BUF_SIZE` and `LEN` bytes (log 9), a buffer of either ring is the one the descriptor's
word 0 names (log 8), and a TX word 1 inside such a buffer, of either ring, is part of it (log 17). -/
def Obligations.OwnershipViolationsFaultAfterTheStore : Prop :=
  ∀ (a : Word) (bs : List Byte) (s : State),
    (isDescriptorAccess s.cfg a bs.length = false ∨ bs.length = 4 ∧ a &&& 0x3 = 0) →
    let t := { s with mem := writeBytes s.mem a bs }
    let breaksRx := (rxEnabled s = true ∨ s.rx.state ≠ .idle) ∧ breaksRxOwnership s a bs.length = true
    let breaksTx := s.tx.state = .active ∧ breaksTxOwnership s a bs.length = true
    (breaksRx → hostStore a bs s = .fault (.rxOwnershipViolation t))
    ∧ (¬ breaksRx → breaksTx → hostStore a bs s = .fault (.txOwnershipViolation t))
    ∧ (¬ breaksRx → ¬ breaksTx → hostStore a bs s = .next (some (t, HostValue.nothing))
        ∧ SameMemoryOutside s t a bs.length)

/-! ### Words and tables of the procedures -/

/-- 45_sw_transmit.md R455, in part: the handover word of a chunk of n bytes, 1 to 2047, decodes to a well-formed owned descriptor with
that length, `LAST` and `WRAP`, and no error bit. -/
def Obligations.HandoverWordsDecodeAsSent : Prop :=
  ∀ (n : Nat) (last wrap : Bool), 1 ≤ n → n ≤ 2047 →
    let f : TxFields :=
      { len := BitVec.ofNat 11 n, resLow := 0, resHigh := 0, bex := false, und := false, rle := false, wrap := wrap }
    f.wf = true ∧ decodeTxd (sendWord n last wrap) = if last then .txdLast f else .txdBuf f

/-- 30_encoding.md R221: the management word of an operation decodes to that operation at that PHY address, and is the word
R221 writes with shifts. -/
def Obligations.ManagementWordsDecodeAsAsked : Prop :=
  ∀ (p r : PhyIndex) (v : Half),
    decodeMan (manWord p (.read r)) = .ok (.mdioRead { phya := p, rega := r, data := 0 })
    ∧ decodeMan (manWord p (.write r v)) = .ok (.mdioWrite { phya := p, rega := r, data := v })
    ∧ manWord p (.write r v) = (1#32 <<< 30) ||| (1#32 <<< 28) ||| (p.setWidth 32 <<< 23) ||| (r.setWidth 32 <<< 18)
        ||| (2#32 <<< 16) ||| v.setWidth 32

/-- 47_sw_phy_init.md R558: the resolution prefers 100 full, then 100 half, then 10 full, then neither, whatever the other
bits. -/
def Obligations.ResolutionPrefersSpeedThenDuplex : Prop :=
  ∀ x : Half,
    (x.getLsbD 8 = true → resolveBits x = 3)
    ∧ (x.getLsbD 8 = false → x.getLsbD 7 = true → resolveBits x = 1)
    ∧ (x.getLsbD 8 = false → x.getLsbD 7 = false → x.getLsbD 6 = true → resolveBits x = 2)
    ∧ (x.getLsbD 8 = false → x.getLsbD 7 = false → x.getLsbD 6 = false → resolveBits x = 0)

/-- 47_sw_phy_init.md R563 with the dividers of 44_mdio.md R406: the table. The divider chosen is the smallest that keeps MDC
at or below 2.5 MHz, and there is one exactly up to 160 MHz. -/
def Obligations.ClockDividerKeepsMdcInRange : Prop :=
  (∀ (mck : Nat) (d : BitVec 2), clkDiv mck = some d ↔
    mck ≤ 2500000 * mdcDivider d ∧ (d ≠ 0 → 2500000 * mdcDivider (d - 1) < mck))
  ∧ (mdcDivider 0 = 8 ∧ mdcDivider 1 = 16 ∧ mdcDivider 2 = 32 ∧ mdcDivider 3 = 64)
  ∧ ∀ mck : Nat, clkDiv mck = none ↔ 160000000 < mck

/-- 46_sw_receive.md R512: a `read()` that asks for more than the frame has left, or whose buffer software does not own, stops
with `read_precondition`. That what is left is counted in the integers, and that the second stop falls in the step of the
LDB line and not in that of the LD32 before it, are the model's choices (log 20). -/
def Obligations.ReadPreconditionFaults : Prop :=
  ∀ (id : ContextId) (l : ReadLocals) (w0 : Word) (rest : List Point) (s : State),
    (l.total.toNat < l.len.toNat + s.sw.rxConsumed → lineStep id (.readCheck l) rest s = .fault .readPrecondition)
    ∧ (w0.getLsbD 0 = false → lineStep id (.readCopy l w0) rest s = .fault .readPrecondition)

/-- 47_sw_phy_init.md R553: `probe_and_negotiate()` returns FAILURE exactly where the two identity registers read differ
from `PHY_ID`. Under `PHY_PRESENT` (44_mdio.md R423, as log 23 reads it) the two values the PHY has answered do not. -/
def Obligations.ProbeFailsExactlyOnAnotherIdentity : Prop :=
  ∀ (id : ContextId) (id1 : Half) (rest : List Point) (s : State),
    let x := contextOf s id
    let goes := lineStep id (.probeCompare id1) rest s = .next (putContext s id rest (goOn x s.sw
      (if s.cfg.lineMode = .rmii then [.collaborator false, .probeAdvertise] else [.probeAdvertise])))
    (id1 ++ x.ret.setWidth 16 ≠ s.cfg.phyId →
      lineStep id (.probeCompare id1) rest s = .next (putContext s id rest (returns x s.sw 0)))
    ∧ (id1 ++ x.ret.setWidth 16 = s.cfg.phyId → goes)
    ∧ (PhyPresent s.cfg s.events → .mdioRead s.cfg.phyAddr 2 id1 ∈ s.events →
      .mdioRead s.cfg.phyAddr 3 (x.ret.setWidth 16) ∈ s.events → goes)

/-! ### The rings -/

/-- 45_sw_transmit.md R450 and 10_state.md R82: from every state that meets the preconditions of R451, `setup()` runs to its
end with no fault; then every descriptor is as R450 writes it, exactly the last of each ring carries `WRAP`, the cursors
are 0 and the two queue pointers are posted. The configuration meets log 4, and the count of steps takes the line that sets the
cursors as one (log 13). -/
def Obligations.SetupEstablishesTheRings : Prop :=
  ∀ (id : ContextId) (rest : List Point) (s : State), configOk s.cfg = true → id ≠ .isr → isIdle s.hostIsr = true →
    (contextOf s id).stack = .setupTxWord0 0 :: rest → rxEnabled s = false → s.rx.state = .idle → s.tx.state = .idle →
    ∃ t, agentRuns (agentOf id) (2 * s.cfg.txCount + 2 * s.cfg.rxCount + 3) s t
      ∧ (∀ i, i < s.cfg.txCount → readWord t.mem (descTx s.cfg i) = txBufferAddr s.cfg i
        ∧ readWord t.mem (descTx s.cfg i + 4) = 0x80000000 ||| (if i + 1 = s.cfg.txCount then 0x40000000 else 0))
      ∧ (∀ i, i < s.cfg.rxCount → readWord t.mem (descRx s.cfg i + 4) = 0
        ∧ readWord t.mem (descRx s.cfg i) = rxBufferAddr s.cfg i ||| (if i + 1 = s.cfg.rxCount then 0x2 else 0))
      ∧ RingsWrap t ∧ RxBuffersBound t ∧ CursorsInRings t
      ∧ t.sw = { s.sw with txIndex := 0, txReclaim := 0, rxIndex := 0, rxOffset := 0, rxConsumed := 0, rxReady := false }
      ∧ t.pw = s.pw ++ [(.rbqp, descRx s.cfg 0), (.tbqp, descTx s.cfg 0)] ∧ (contextOf t id).stack = rest

/-- 10_state.md R82 and R71: the agents of the EMAC and its environment keep the rings, with exactly the last descriptor of each
carrying `WRAP`, and both engines stay in them; and so does every line of a reference procedure, where the word it writes back
carries its slot's `WRAP` and its cursors are slots. A platform reset is left out, since it takes the pointers to 0. -/
def Obligations.RingInvariantIsKept : Prop :=
  ∀ s t : State, configOk s.cfg = true →
    (∀ g, g ≠ .hostTx → g ≠ .hostRx → g ≠ .hostIsr → g ≠ .reset → RingsOk s → agentStep g s = .next t → RingsOk t)
    ∧ (∀ id p rest, RingsWrap s → CursorsInRings s → LineKeepsWrap s.cfg s.sw p → lineStep id p rest s = .next t →
      RingsWrap t)

/-! ### Fair runs -/

/-- 70_reset_and_hazards.md R671 with 41_host_registers.md R252 and 44_mdio.md R409: in a fair run, whatever is drawn, the
oldest posted write is performed unless a reset empties `pw`, and a management frame in progress ends. What a run is, and that a
reset may come in it, is logs 2 and 15. -/
def Obligations.FairRunsMakeProgress : Prop :=
  ∀ r : Nat → State, FairRun r → ∀ n,
    ((r n).pw ≠ [] → ∃ m, n ≤ m ∧ (((r m).draws.agent = .bus ∧ (r m).pw ≠ []) ∨ (r m).draws.agent = .reset))
    ∧ ((r n).mdio.busy = true → ∃ m, n ≤ m ∧ (r m).mdio.busy = false)

/-! ### Invariants every step keeps -/

/-- System memory stays in its canonical form, which is the model's own (log 3). -/
def Obligations.StepKeepsMemoryCanonical : Prop :=
  ∀ s t : State, MemoryCanonical s → step s = .next t → MemoryCanonical t

/-- The hardware's invariants: pointers aligned, reserved bits zero, engines gated by their enables, the received frame and
the management frame consistent (10_state.md R64, R70 to R74). -/
def Obligations.StepKeepsTheHardwareOk : Prop :=
  ∀ s t : State, HardwareOk s → step s = .next t → HardwareOk t

/-- Critical sections exclude each other and the handler (60_exceptions.md R617; 45_sw_transmit.md R457). That the two
consumer contexts exclude each other is the model's reading (log 14). -/
def Obligations.StepKeepsCriticalSectionsExclusive : Prop :=
  ∀ s t : State, CriticalExclusive s → step s = .next t → CriticalExclusive t

/-- 10_state.md R83: no step changes the configuration; a step that answers has one within R13 and R15, whose buffer pools,
by the model's choice beyond R15 (3), do not cross 2^32 either (log 4). That each step counts one draw is the model's own
counter (log 2). -/
def Obligations.StepKeepsTheConfiguration : Prop :=
  ∀ s t : State, step s = .next t → t.cfg = s.cfg ∧ configOk s.cfg = true ∧ t.drawCount = s.drawCount + 1
end

