-- ==== Sys2Proof/Laws/Encoding.lean ====
section
/-!
SUPPORT. The bits of the encoded words (30_encoding.md R202, R212, R217, R220), one lemma per word, and what the decoder
reads from each.
-/

namespace Sys2Proof

/-! ### The bits of each word -/

theorem getLsbD_leWord (b0 b1 b2 b3 : Byte) (k : Nat) :
    (leWord b0 b1 b2 b3).getLsbD k =
      if k < 8 then b0.getLsbD k else if k < 16 then b1.getLsbD (k - 8)
      else if k < 24 then b2.getLsbD (k - 16) else b3.getLsbD (k - 24) := by
  rw [leWord, BitVec.getLsbD_append, BitVec.getLsbD_append, BitVec.getLsbD_append, Nat.sub_sub, Nat.sub_sub]
  have h1 : k - 8 < 8 ↔ k < 16 := by omega
  have h2 : k - (8 + 8) < 8 ↔ k < 24 := by omega
  simp only [h1, h2]

theorem getLsbD_byteOf (v : Word) (n k : Nat) : (byteOf v n).getLsbD k = (decide (k < 8) && v.getLsbD (8 * n + k)) := by
  simp [byteOf]

theorem getLsbD_txWord (used last : Bool) (f : TxFields) (k : Nat) :
    (txWord used last f).getLsbD k =
      if k < 11 then f.len.getLsbD k else if k < 15 then f.resLow.getLsbD (k - 11)
      else if k = 15 then last else if k < 27 then f.resHigh.getLsbD (k - 16)
      else if k = 27 then f.bex else if k = 28 then f.und else if k = 29 then f.rle
      else if k = 30 then f.wrap else if k = 31 then used else false := by
  rw [txWord, BitVec.getLsbD_append, BitVec.getLsbD_append, BitVec.getLsbD_append, BitVec.getLsbD_append,
    BitVec.getLsbD_append, BitVec.getLsbD_append, BitVec.getLsbD_append, BitVec.getLsbD_append]
  simp only [Nat.sub_sub, Nat.reduceAdd, BitVec.getLsbD_ofBool]
  by_cases h1 : k < 11
  · rw [if_pos h1, if_pos h1]
  by_cases h2 : k < 15
  · rw [if_neg h1, if_pos (by omega), if_neg h1, if_pos h2]
  by_cases h3 : k = 15
  · subst h3; rfl
  by_cases h4 : k < 27
  · rw [if_neg h1, if_neg (by omega), if_neg (by omega), if_pos (by omega), if_neg h1, if_neg h2, if_neg h3, if_pos h4]
  by_cases h5 : k < 32
  · obtain rfl | rfl | rfl | rfl | rfl : k = 27 ∨ k = 28 ∨ k = 29 ∨ k = 30 ∨ k = 31 := by omega
    all_goals rfl
  · rw [if_neg h1, if_neg (by omega), if_neg (by omega), if_neg (by omega), if_neg (by omega), if_neg (by omega),
      if_neg (by omega), if_neg (by omega), if_neg h1, if_neg h2, if_neg h3, if_neg h4, if_neg (by omega),
      if_neg (by omega), if_neg (by omega), if_neg (by omega), if_neg (by omega)]
    simp; omega

theorem getLsbD_rxWord (own : Bool) (f : RxFields) (k : Nat) :
    (rxWord own f).getLsbD k =
      if k = 0 then own else if k = 1 then f.wrap else f.addr.getLsbD (k - 2) := by
  rw [rxWord, BitVec.getLsbD_append, BitVec.getLsbD_append]
  simp only [Nat.sub_sub, Nat.reduceAdd, BitVec.getLsbD_ofBool]
  repeat' split
  all_goals first
    | rfl
    | omega
    | (simp; omega)

theorem getLsbD_manFrame (rw : BitVec 2) (f : ManFields) (k : Nat) :
    (manFrame rw f).getLsbD k =
      if k < 16 then f.data.getLsbD k else if k < 18 then (2#2).getLsbD (k - 16)
      else if k < 23 then f.rega.getLsbD (k - 18) else if k < 28 then f.phya.getLsbD (k - 23)
      else if k < 30 then rw.getLsbD (k - 28) else (1#2).getLsbD (k - 30) := by
  rw [manFrame, BitVec.getLsbD_append, BitVec.getLsbD_append, BitVec.getLsbD_append, BitVec.getLsbD_append,
    BitVec.getLsbD_append]
  simp only [Nat.sub_sub, Nat.reduceAdd]
  repeat' split
  all_goals first
    | rfl
    | omega

/-- A slice of a word is known by its bits. -/
theorem extractLsb'_eq_of {w m : Nat} {x : BitVec w} {n : Nat} {y : BitVec m}
    (h : ∀ k, k < m → x.getLsbD (n + k) = y.getLsbD k) : x.extractLsb' n m = y := by
  apply BitVec.eq_of_getLsbD_eq
  intro k hk
  rw [BitVec.getLsbD_extractLsb', h k hk]
  simp [hk]

/-! ### What the decoder reads from them -/

theorem txFields_txWord (used last : Bool) (f : TxFields) : txFields (txWord used last f) = f := by
  obtain ⟨len, rl, rh, bex, und, rle, wrap⟩ := f
  simp only [txFields, TxFields.mk.injEq]
  refine ⟨extractLsb'_eq_of fun k hk => ?_, extractLsb'_eq_of fun k hk => ?_, extractLsb'_eq_of fun k hk => ?_,
    ?_, ?_, ?_, ?_⟩
  all_goals rw [getLsbD_txWord]
  · simp [hk]
  · rw [if_neg (by omega), if_pos (by omega)]; simp
  · rw [if_neg (by omega), if_neg (by omega), if_neg (by omega), if_pos (by omega)]; simp
  all_goals rfl

theorem decodeTxd_txWord (used last : Bool) (f : TxFields) :
    decodeTxd (txWord used last f) = if used then .txdStop last f else if last then .txdLast f else .txdBuf f := by
  have h1 : (txWord used last f).getLsbD 31 = used := by rw [getLsbD_txWord]; rfl
  have h2 : (txWord used last f).getLsbD 15 = last := by rw [getLsbD_txWord]; rfl
  simp only [decodeTxd, h1, h2, txFields_txWord]

theorem decodeRxd_rxWord (own : Bool) (f : RxFields) :
    decodeRxd (rxWord own f) = if own then .rxdFull f else .rxdFree f := by
  have h1 : (rxWord own f).getLsbD 0 = own := by rw [getLsbD_rxWord]; rfl
  have h2 : (rxWord own f).getLsbD 1 = f.wrap := by rw [getLsbD_rxWord]; rfl
  have h3 : (rxWord own f).extractLsb' 2 30 = f.addr := extractLsb'_eq_of fun k _ => by
    rw [getLsbD_rxWord, if_neg (by omega), if_neg (by omega)]; simp
  simp only [decodeRxd, h1, h2, h3]

theorem manFields_manFrame (rw : BitVec 2) (f : ManFields) : manFields (manFrame rw f) = f := by
  obtain ⟨p, r, d⟩ := f
  simp only [manFields, ManFields.mk.injEq]
  refine ⟨extractLsb'_eq_of fun k hk => ?_, extractLsb'_eq_of fun k hk => ?_, extractLsb'_eq_of fun k hk => ?_⟩
  all_goals rw [getLsbD_manFrame]
  · rw [if_neg (by omega), if_neg (by omega), if_neg (by omega), if_pos (by omega)]; simp
  · rw [if_neg (by omega), if_neg (by omega), if_pos (by omega)]; simp
  · simp [hk]

/-- The three fixed fields of a management word: start, turnaround, opcode. -/
theorem manFrame_fixed (rw : BitVec 2) (f : ManFields) :
    (manFrame rw f).extractLsb' 30 2 = 1#2 ∧ (manFrame rw f).extractLsb' 16 2 = 2#2
      ∧ (manFrame rw f).extractLsb' 28 2 = rw := by
  refine ⟨extractLsb'_eq_of fun k hk => ?_, extractLsb'_eq_of fun k hk => ?_, extractLsb'_eq_of fun k hk => ?_⟩
  all_goals rw [getLsbD_manFrame]
  · rw [if_neg (by omega), if_neg (by omega), if_neg (by omega), if_neg (by omega), if_neg (by omega)]; simp
  · rw [if_neg (by omega), if_pos (by omega)]; simp
  · rw [if_neg (by omega), if_neg (by omega), if_neg (by omega), if_neg (by omega), if_pos (by omega)]; simp

theorem decodeMan_manFrame (rw : BitVec 2) (f : ManFields) :
    decodeMan (manFrame rw f) =
      if rw = 2#2 then .ok (.mdioRead f) else if rw = 1#2 then .ok (.mdioWrite f) else .error .manReserved := by
  obtain ⟨h1, h2, h3⟩ := manFrame_fixed rw f
  simp [decodeMan, h1, h2, h3, manFields_manFrame]

/-! ### A word is the encoding of what is read from it -/

theorem byteOf_leWord (b0 b1 b2 b3 : Byte) :
    byteOf (leWord b0 b1 b2 b3) 0 = b0 ∧ byteOf (leWord b0 b1 b2 b3) 1 = b1 ∧ byteOf (leWord b0 b1 b2 b3) 2 = b2
      ∧ byteOf (leWord b0 b1 b2 b3) 3 = b3 := by
  refine ⟨extractLsb'_eq_of fun k hk => ?_, extractLsb'_eq_of fun k hk => ?_, extractLsb'_eq_of fun k hk => ?_,
    extractLsb'_eq_of fun k hk => ?_⟩
  all_goals rw [getLsbD_leWord]
  · rw [if_pos (by omega)]; simp
  · rw [if_neg (by omega), if_pos (by omega)]; simp
  · rw [if_neg (by omega), if_neg (by omega), if_pos (by omega)]; simp
  · rw [if_neg (by omega), if_neg (by omega), if_neg (by omega)]; simp

theorem leBytes_leWord (b0 b1 b2 b3 : Byte) : leBytes (leWord b0 b1 b2 b3) = [b0, b1, b2, b3] := by
  obtain ⟨h0, h1, h2, h3⟩ := byteOf_leWord b0 b1 b2 b3
  simp [leBytes, h0, h1, h2, h3]

theorem leWord_bytes (v : Word) : leWord (byteOf v 0) (byteOf v 1) (byteOf v 2) (byteOf v 3) = v := by
  apply BitVec.eq_of_getLsbD_eq
  intro k hk
  rw [getLsbD_leWord]
  simp only [getLsbD_byteOf]
  by_cases h1 : k < 8
  · simp [h1]
  by_cases h2 : k < 16
  · rw [if_neg h1, if_pos h2, show 8 * 1 + (k - 8) = k by omega]; simp; omega
  by_cases h3 : k < 24
  · rw [if_neg h1, if_neg h2, if_pos h3, show 8 * 2 + (k - 16) = k by omega]; simp; omega
  · rw [if_neg h1, if_neg h2, if_neg h3, show 8 * 3 + (k - 24) = k by omega]; simp; omega

theorem txWord_txFields (w : Word) : txWord (w.getLsbD 31) (w.getLsbD 15) (txFields w) = w := by
  apply BitVec.eq_of_getLsbD_eq
  intro k hk
  rw [getLsbD_txWord]
  simp only [txFields, BitVec.getLsbD_extractLsb']
  by_cases h1 : k < 11
  · simp [h1]
  by_cases h2 : k < 15
  · rw [if_neg h1, if_pos h2, show 11 + (k - 11) = k by omega]; simp; omega
  by_cases h3 : k = 15
  · subst h3; rfl
  by_cases h4 : k < 27
  · rw [if_neg h1, if_neg h2, if_neg h3, if_pos h4, show 16 + (k - 16) = k by omega]; simp; omega
  obtain rfl | rfl | rfl | rfl | rfl : k = 27 ∨ k = 28 ∨ k = 29 ∨ k = 30 ∨ k = 31 := by omega
  all_goals rfl

theorem rxWord_fields (w : Word) : rxWord (w.getLsbD 0) ⟨w.extractLsb' 2 30, w.getLsbD 1⟩ = w := by
  apply BitVec.eq_of_getLsbD_eq
  intro k hk
  rw [getLsbD_rxWord]
  simp only [BitVec.getLsbD_extractLsb']
  by_cases h1 : k = 0
  · subst h1; rfl
  by_cases h2 : k = 1
  · subst h2; rfl
  · rw [if_neg h1, if_neg h2, show 2 + (k - 2) = k by omega]; simp; omega

/-- A management word with the fixed start and turnaround fields. -/
theorem manFrame_manFields {w : Word} (h1 : w.extractLsb' 30 2 = 1#2) (h2 : w.extractLsb' 16 2 = 2#2) :
    manFrame (w.extractLsb' 28 2) (manFields w) = w := by
  apply BitVec.eq_of_getLsbD_eq
  intro k hk
  rw [getLsbD_manFrame]
  simp only [manFields, BitVec.getLsbD_extractLsb', ← h1, ← h2]
  by_cases a1 : k < 16
  · simp [a1]
  by_cases a2 : k < 18
  · rw [if_neg a1, if_pos a2, show 16 + (k - 16) = k by omega]; simp; omega
  by_cases a3 : k < 23
  · rw [if_neg a1, if_neg a2, if_pos a3, show 18 + (k - 18) = k by omega]; simp; omega
  by_cases a4 : k < 28
  · rw [if_neg a1, if_neg a2, if_neg a3, if_pos a4, show 23 + (k - 23) = k by omega]; simp; omega
  by_cases a5 : k < 30
  · rw [if_neg a1, if_neg a2, if_neg a3, if_neg a4, if_pos a5, show 28 + (k - 28) = k by omega]; simp; omega
  · rw [if_neg a1, if_neg a2, if_neg a3, if_neg a4, if_neg a5, show 30 + (k - 30) = k by omega]; simp; omega

/-! ### The register operations' bytes -/

/-- A command's two bytes give the command back, and its seven spare bits are 0. -/
theorem busCommand_bytes (cmd : BusCommand) :
    ((0#7 ++ cmd.extractLsb' 8 1 : Byte).extractLsb' 0 1 ++ cmd.extractLsb' 0 8 : BusCommand) = cmd
      ∧ (0#7 ++ cmd.extractLsb' 8 1 : Byte).extractLsb' 1 7 = 0#7 := by
  revert cmd; decide

theorem decode_bus_read (cmd : BusCommand) (rest : List Byte) (h : cmd.getLsbD 8 = false) :
    decode .bus9 (busBytes cmd [] ++ rest) = (decodeBus cmd 0).map (·, rest) := by
  obtain ⟨h1, h2⟩ := busCommand_bytes cmd
  simp only [busBytes, List.cons_append, List.nil_append, decode, h1, h2, h]
  rfl

theorem decode_bus_write (cmd : BusCommand) (v : Word) (rest : List Byte) (h : cmd.getLsbD 8 = true) :
    decode .bus9 (busBytes cmd (leBytes v) ++ rest) = (decodeBus cmd v).map (·, rest) := by
  obtain ⟨h1, h2⟩ := busCommand_bytes cmd
  simp only [busBytes, List.cons_append, decode, leBytes, List.nil_append, h1, h2, h, leWord_bytes]
  rfl

end Sys2Proof
end

