-- ==== Sys2Proof/Laws/Fields.lean ====
section
/-!
SUPPORT. The bits of the values register reads return (10_state.md R51 to R63), and the reserved-bit test of a write (R64)
as one on the bits of the written value.
-/

namespace Sys2Proof.Machine

theorem getLsbD_nsrValue (s : State) (k : Nat) :
    (nsrValue s).getLsbD k = if k = 1 then s.draws.word.getLsbD 1 else if k = 2 then !s.mdio.busy else false := by
  rw [nsrValue, BitVec.getLsbD_append, BitVec.getLsbD_append, BitVec.getLsbD_append]
  simp only [Nat.sub_sub, Nat.reduceAdd, BitVec.getLsbD_ofBool]
  by_cases h0 : k = 0
  · subst h0; rfl
  by_cases h1 : k = 1
  · subst h1; simp
  by_cases h2 : k = 2
  · subst h2; simp
  · rw [if_neg (by omega), if_neg (by omega), if_neg (by omega), if_neg h1, if_neg h2]; simp

/-- A value and a mask have no common bit exactly if the value is 0 wherever the mask is 1. -/
theorem and_eq_zero_iff {x m : Word} : x &&& m = 0 ↔ ∀ k, m.getLsbD k = true → x.getLsbD k = false := by
  constructor
  · intro h k hk
    have := congrArg (fun v => BitVec.getLsbD v k) h
    simpa [hk] using this
  · intro h
    apply BitVec.eq_of_getLsbD_eq
    intro k _
    rw [BitVec.getLsbD_and]
    cases hm : m.getLsbD k
    · simp
    · simp [h k hm]

/-- A field is 0 exactly if each of its bits is. -/
theorem extractLsb'_eq_zero_iff {x : Word} {n m : Nat} :
    x.extractLsb' n m = 0#m ↔ ∀ k, n ≤ k → k < n + m → x.getLsbD k = false := by
  constructor
  · intro h k h1 h2
    have := congrArg (fun v => BitVec.getLsbD v (k - n)) h
    simp only [BitVec.getLsbD_extractLsb', BitVec.getLsbD_zero] at this
    rw [show n + (k - n) = k by omega] at this
    simpa [show k - n < m by omega] using this
  · intro h
    exact extractLsb'_eq_of fun k hk => by rw [h _ (by omega) (by omega)]; simp

/-- A value with no bit outside a mask is unchanged by it. -/
theorem and_mask_eq {x m : Word} (h : x &&& ~~~m = 0) : x &&& m = x := by
  rw [and_eq_zero_iff] at h
  apply BitVec.eq_of_getLsbD_eq
  intro k hk
  rw [BitVec.getLsbD_and]
  cases hm : m.getLsbD k
  · rw [h k (by rw [BitVec.getLsbD_not, hm]; simp [hk])]; rfl
  · rw [Bool.and_true]

/-- A write is accepted exactly if it sets no reserved bit (R64). -/
theorem accepts_iff {r : Reg} {v : Word} :
    Reg.accepts r v = true ↔ ∀ k, k < 32 → r.writable.getLsbD k = false → v.getLsbD k = false := by
  unfold Reg.accepts
  rw [beq_iff_eq]
  rw [and_eq_zero_iff]
  constructor
  · intro h k hk hm
    exact h k (by rw [BitVec.getLsbD_not, hm]; simp [hk])
  · intro h k hk
    by_cases hlt : k < 32
    · rw [BitVec.getLsbD_not] at hk
      exact h k hlt (by cases hw : r.writable.getLsbD k <;> simp_all)
    · exact BitVec.getLsbD_of_ge _ _ (by omega)

theorem ifAccepted_of_accepts {r : Reg} {v : Word} {k : Result State} (h : Reg.accepts r v = true) :
    ifAccepted r v k = k := by
  rw [ifAccepted, if_pos h]

theorem ifAccepted_of_not_accepts {r : Reg} {v : Word} {k : Result State} (h : Reg.accepts r v ≠ true) :
    ifAccepted r v k = .refused .reservedBit := by
  rw [ifAccepted, if_neg h]

end Sys2Proof.Machine
end

