-- ==== Sys2Proof/Laws/Memory.lean ====
section
/-!
SUPPORT. What the memory operations do: they keep the canonical form; a read after a write gives what was written and
leaves every other address alone.
-/

namespace Sys2Proof.Machine

/-! ### One byte -/

@[simp] theorem lookup_nil (a : Nat) : lookup [] a = none := rfl

theorem lookup_cons (b : Nat) (v : Byte) (m : Memory) (a : Nat) :
    lookup ((b, v) :: m) a = if b = a then some v else lookup m a := rfl

theorem lookup_insertByte_same (m : Memory) (a : Nat) (v : Byte) : lookup (insertByte m a v) a = some v := by
  induction m with
  | nil => simp [insertByte, lookup_cons]
  | cons c m ih =>
    obtain ⟨b, w⟩ := c
    simp only [insertByte]
    split
    · simp [lookup_cons]
    · split
      · simp [lookup_cons]
      · rw [lookup_cons, if_neg (by omega), ih]

theorem lookup_insertByte_of_ne (m : Memory) {a x : Nat} (v : Byte) (h : x ≠ a) :
    lookup (insertByte m a v) x = lookup m x := by
  induction m with
  | nil => simp [insertByte, lookup_cons, h.symm]
  | cons c m ih =>
    obtain ⟨b, w⟩ := c
    simp only [insertByte]
    split
    · rw [lookup_cons, if_neg h.symm]
    · split
      · next hab => subst hab; rw [lookup_cons, if_neg h.symm, lookup_cons, if_neg h.symm]
      · rw [lookup_cons, lookup_cons, ih]

/-- An inserted cell is the new one or an old one. -/
theorem mem_insertByte {m : Memory} {a : Nat} {v : Byte} {c : Host.Cell} (h : c ∈ insertByte m a v) :
    c = (a, v) ∨ c ∈ m := by
  induction m with
  | nil => simpa [insertByte] using h
  | cons d m ih =>
    obtain ⟨b, w⟩ := d
    simp only [insertByte] at h
    split at h
    · simpa using h
    · split at h
      · rcases List.mem_cons.1 h with h | h
        · exact .inl h
        · exact .inr (List.mem_cons_of_mem _ h)
      · rcases List.mem_cons.1 h with h | h
        · exact .inr (h ▸ List.mem_cons_self)
        · exact (ih h).imp id (List.mem_cons_of_mem _)

/-- Writing a byte keeps the canonical form. -/
theorem insertByte_wf {m : Memory} {a : Nat} (v : Byte) (ha : a < 4294967296) (h : Memory.wf m) :
    Memory.wf (insertByte m a v) := by
  refine ⟨?_, fun c hc => ?_⟩
  · obtain ⟨h, -⟩ := h
    induction m with
    | nil => simp [insertByte]
    | cons c m ih =>
      obtain ⟨b, w⟩ := c
      have hb := (List.pairwise_cons.1 h).1
      have hm := (List.pairwise_cons.1 h).2
      simp only [insertByte]
      split
      · next hab =>
        refine List.pairwise_cons.2 ⟨fun x hx => ?_, h⟩
        rcases List.mem_cons.1 hx with rfl | hx
        · exact hab
        · exact Nat.lt_trans hab (hb x hx)
      · split
        · next hab => subst hab; exact List.pairwise_cons.2 ⟨hb, hm⟩
        · refine List.pairwise_cons.2 ⟨fun x hx => ?_, ih hm⟩
          rcases mem_insertByte hx with rfl | hx
          · show b < a
            omega
          · exact hb x hx
  · rcases mem_insertByte hc with rfl | hc
    · exact ha
    · exact h.2 c hc

theorem writeByte_wf {m : Memory} (a : Word) (v : Byte) (h : Memory.wf m) : Memory.wf (writeByte m a v) :=
  insertByte_wf v a.isLt h

theorem readByte_writeByte_same (m : Memory) (a : Word) (v : Byte) : readByte (writeByte m a v) a = v := by
  simp [readByte, writeByte, lookup_insertByte_same]

theorem readByte_writeByte_of_ne (m : Memory) {a x : Word} (v : Byte) (h : x ≠ a) :
    readByte (writeByte m a v) x = readByte m x := by
  have : x.toNat ≠ a.toNat := fun e => h (BitVec.eq_of_toNat_eq e)
  simp [readByte, writeByte, lookup_insertByte_of_ne m v this]

/-! ### Several bytes -/

theorem writeBytes_wf {m : Memory} (a : Word) (bs : List Byte) (h : Memory.wf m) : Memory.wf (writeBytes m a bs) := by
  induction bs generalizing m a with
  | nil => exact h
  | cons b bs ih => exact ih _ (writeByte_wf a b h)

theorem writeWord_wf {m : Memory} (a v : Word) (h : Memory.wf m) : Memory.wf (writeWord m a v) :=
  writeBytes_wf a _ h

/-- The bytes of a span, by their offset. -/
theorem inSpan_offset (a : Word) {k : Nat} (n : Nat) (hk : k < 4294967296) :
    inSpan (a + BitVec.ofNat 32 k) a n = decide (k < n) := by
  have : (a + BitVec.ofNat 32 k - a).toNat = k := by
    simp only [BitVec.toNat_sub, BitVec.toNat_add, BitVec.toNat_ofNat]
    have := a.isLt
    omega
  rw [inSpan, this]

/-- A byte before the start of a later span is not in it. -/
theorem inSpan_before (a : Word) {k j n : Nat} (hk : k < j) (hn : j + n ≤ 4294967296) :
    inSpan (a + BitVec.ofNat 32 k) (a + BitVec.ofNat 32 j) n = false := by
  simp only [inSpan, decide_eq_false_iff_not, Nat.not_lt, BitVec.toNat_sub, BitVec.toNat_add, BitVec.toNat_ofNat]
  have := a.isLt
  omega

/-- A byte outside a span is outside every part of it. -/
theorem inSpan_part {x a : Word} {j n m : Nat} (h : inSpan x a m = false) (hm : j + n ≤ m) (hl : m ≤ 4294967296) :
    inSpan x (a + BitVec.ofNat 32 j) n = false := by
  simp only [inSpan, decide_eq_false_iff_not, Nat.not_lt, BitVec.toNat_sub, BitVec.toNat_add, BitVec.toNat_ofNat] at h ⊢
  have := a.isLt
  have := x.isLt
  omega

/-- An address outside a span of at least one byte is not its first, and lies outside the rest of the span. -/
theorem inSpan_succ_false {x a : Word} {n : Nat} (h : inSpan x a (n + 1) = false) :
    x ≠ a ∧ inSpan x (a + 1) n = false := by
  simp only [inSpan, decide_eq_false_iff_not, Nat.not_lt] at h ⊢
  constructor
  · rintro rfl
    simp at h
  · have : (x - (a + 1)).toNat = (x - a).toNat - 1 := by
      have one : (1 : Word).toNat = 1 := rfl
      simp only [BitVec.toNat_sub, BitVec.toNat_add, one] at h ⊢
      have := x.isLt
      have := a.isLt
      omega
    omega

/-- A write leaves every address outside its span alone. -/
theorem readByte_writeBytes_of_not_inSpan (m : Memory) {a x : Word} (bs : List Byte)
    (h : inSpan x a bs.length = false) : readByte (writeBytes m a bs) x = readByte m x := by
  induction bs generalizing m a with
  | nil => rfl
  | cons b bs ih =>
    obtain ⟨h1, h2⟩ := inSpan_succ_false (by simpa using h)
    rw [writeBytes, ih _ h2, readByte_writeByte_of_ne _ _ h1]

/-- A write of at most the whole address space puts byte `k` at `a + k`. -/
theorem readByte_writeBytes (m : Memory) (a : Word) (bs : List Byte) (hl : bs.length ≤ 4294967296) {k : Nat}
    (hk : k < bs.length) : readByte (writeBytes m a bs) (a + BitVec.ofNat 32 k) = bs[k] := by
  induction bs generalizing m a k with
  | nil => simp at hk
  | cons b bs ih =>
    simp only [List.length_cons] at hl hk
    cases k with
    | zero =>
      have : inSpan (a + BitVec.ofNat 32 0) (a + 1) bs.length = false := by
        have one : (1 : Word).toNat = 1 := rfl
        simp only [inSpan, decide_eq_false_iff_not, Nat.not_lt, BitVec.toNat_sub, BitVec.toNat_add, BitVec.toNat_ofNat, one]
        have := a.isLt
        omega
      rw [writeBytes, readByte_writeBytes_of_not_inSpan _ _ this]
      simp [readByte_writeByte_same]
    | succ k =>
      have e : a + BitVec.ofNat 32 (k + 1) = (a + 1) + BitVec.ofNat 32 k := by
        apply BitVec.eq_of_toNat_eq
        have one : (1 : Word).toNat = 1 := rfl
        simp only [BitVec.toNat_add, BitVec.toNat_ofNat, one]
        omega
      rw [e, writeBytes, ih _ _ (by omega) (by omega)]
      simp

@[simp] theorem length_readBytes (m : Memory) (a : Word) (n : Nat) : (readBytes m a n).length = n := by
  simp [readBytes]

/-- A read of the span just written gives the bytes written. -/
theorem readBytes_writeBytes (m : Memory) (a : Word) (bs : List Byte) (hl : bs.length ≤ 4294967296) :
    readBytes (writeBytes m a bs) a bs.length = bs := by
  apply List.ext_getElem
  · simp
  · intro k h1 h2
    simp only [readBytes, List.getElem_map, List.getElem_range]
    exact readByte_writeBytes m a bs hl h2

/-- Reads agree where every byte does. -/
theorem readBytes_congr {m m' : Memory} {a : Word} {n : Nat}
    (h : ∀ k < n, readByte m' (a + BitVec.ofNat 32 k) = readByte m (a + BitVec.ofNat 32 k)) :
    readBytes m' a n = readBytes m a n := by
  apply List.map_congr_left
  intro k hk
  exact h k (List.mem_range.1 hk)

/-! ### Words -/

@[simp] theorem length_leBytes (v : Word) : (leBytes v).length = 4 := rfl

theorem readWord_writeWord_same (m : Memory) (a v : Word) : readWord (writeWord m a v) a = v := by
  have h : ∀ k (hk : k < 4), readByte (writeWord m a v) (a + BitVec.ofNat 32 k) = (leBytes v)[k] := fun k hk =>
    readByte_writeBytes m a (leBytes v) (by simp) (by simpa using hk)
  have h0 := h 0 (by omega)
  simp only [BitVec.add_zero] at h0
  have h1 := h 1 (by omega)
  have h2 := h 2 (by omega)
  have h3 := h 3 (by omega)
  rw [readWord, h0]
  erw [h1, h2, h3]
  exact leWord_bytes v

/-- A word none of whose bytes lies in the written span is unchanged. -/
theorem readWord_congr {m m' : Memory} {a : Word}
    (h : ∀ x, inSpan x a 4 = true → readByte m' x = readByte m x) : readWord m' a = readWord m a := by
  have e : ∀ k : Word, k.toNat < 4 → inSpan (a + k) a 4 = true := by
    intro k hk
    have : a + k - a = k := by rw [BitVec.add_comm, BitVec.add_sub_cancel]
    simp [inSpan, this, hk]
  have e0 : inSpan a a 4 = true := by simp [inSpan]
  rw [readWord, readWord, h a e0, h _ (e 1 (by decide)), h _ (e 2 (by decide)), h _ (e 3 (by decide))]

/-- A word write leaves every address outside its four bytes alone. -/
theorem readByte_writeWord_of_not_inSpan (m : Memory) {a x : Word} (v : Word) (h : inSpan x a 4 = false) :
    readByte (writeWord m a v) x = readByte m x :=
  readByte_writeBytes_of_not_inSpan m _ (by simpa using h)

end Sys2Proof.Machine
end

