-- ==== Sys2Proof/Laws/State.lean ====
section
/-!
SUPPORT. What each named update of the state leaves in each field, so that no proof unfolds one.
-/

namespace Sys2Proof.Machine

/-! ### `emit` -/

@[simp] theorem emit_cfg (s : State) (e : Event) : (emit s e).cfg = s.cfg := rfl
@[simp] theorem emit_regs (s : State) (e : Event) : (emit s e).regs = s.regs := rfl
@[simp] theorem emit_tx (s : State) (e : Event) : (emit s e).tx = s.tx := rfl
@[simp] theorem emit_rx (s : State) (e : Event) : (emit s e).rx = s.rx := rfl
@[simp] theorem emit_mdio (s : State) (e : Event) : (emit s e).mdio = s.mdio := rfl
@[simp] theorem emit_pw (s : State) (e : Event) : (emit s e).pw = s.pw := rfl
@[simp] theorem emit_mem (s : State) (e : Event) : (emit s e).mem = s.mem := rfl
@[simp] theorem emit_sw (s : State) (e : Event) : (emit s e).sw = s.sw := rfl
@[simp] theorem emit_hostTx (s : State) (e : Event) : (emit s e).hostTx = s.hostTx := rfl
@[simp] theorem emit_hostRx (s : State) (e : Event) : (emit s e).hostRx = s.hostRx := rfl
@[simp] theorem emit_hostIsr (s : State) (e : Event) : (emit s e).hostIsr = s.hostIsr := rfl
@[simp] theorem emit_handler (s : State) (e : Event) : (emit s e).handler = s.handler := rfl
@[simp] theorem emit_started (s : State) (e : Event) : (emit s e).started = s.started := rfl
@[simp] theorem emit_rdata (s : State) (e : Event) : (emit s e).rdata = s.rdata := rfl
@[simp] theorem emit_events (s : State) (e : Event) : (emit s e).events = s.events ++ [e] := rfl
@[simp] theorem emit_draws (s : State) (e : Event) : (emit s e).draws = s.draws := rfl
@[simp] theorem emit_drawCount (s : State) (e : Event) : (emit s e).drawCount = s.drawCount := rfl

/-! ### `setTsr` -/

@[simp] theorem setTsr_cfg (s : State) (m : Word) : (setTsr s m).cfg = s.cfg := rfl
@[simp] theorem setTsr_regs (s : State) (m : Word) : (setTsr s m).regs = { s.regs with tsr := s.regs.tsr ||| m } := rfl
@[simp] theorem setTsr_tx (s : State) (m : Word) : (setTsr s m).tx = s.tx := rfl
@[simp] theorem setTsr_rx (s : State) (m : Word) : (setTsr s m).rx = s.rx := rfl
@[simp] theorem setTsr_mdio (s : State) (m : Word) : (setTsr s m).mdio = s.mdio := rfl
@[simp] theorem setTsr_pw (s : State) (m : Word) : (setTsr s m).pw = s.pw := rfl
@[simp] theorem setTsr_mem (s : State) (m : Word) : (setTsr s m).mem = s.mem := rfl
@[simp] theorem setTsr_sw (s : State) (m : Word) : (setTsr s m).sw = s.sw := rfl
@[simp] theorem setTsr_hostTx (s : State) (m : Word) : (setTsr s m).hostTx = s.hostTx := rfl
@[simp] theorem setTsr_hostRx (s : State) (m : Word) : (setTsr s m).hostRx = s.hostRx := rfl
@[simp] theorem setTsr_hostIsr (s : State) (m : Word) : (setTsr s m).hostIsr = s.hostIsr := rfl
@[simp] theorem setTsr_handler (s : State) (m : Word) : (setTsr s m).handler = s.handler := rfl
@[simp] theorem setTsr_started (s : State) (m : Word) : (setTsr s m).started = s.started := rfl
@[simp] theorem setTsr_rdata (s : State) (m : Word) : (setTsr s m).rdata = s.rdata := rfl
@[simp] theorem setTsr_events (s : State) (m : Word) : (setTsr s m).events = s.events := rfl
@[simp] theorem setTsr_draws (s : State) (m : Word) : (setTsr s m).draws = s.draws := rfl
@[simp] theorem setTsr_drawCount (s : State) (m : Word) : (setTsr s m).drawCount = s.drawCount := rfl

/-! ### `setRsr` -/

@[simp] theorem setRsr_cfg (s : State) (m : Word) : (setRsr s m).cfg = s.cfg := rfl
@[simp] theorem setRsr_regs (s : State) (m : Word) : (setRsr s m).regs = { s.regs with rsr := s.regs.rsr ||| m } := rfl
@[simp] theorem setRsr_tx (s : State) (m : Word) : (setRsr s m).tx = s.tx := rfl
@[simp] theorem setRsr_rx (s : State) (m : Word) : (setRsr s m).rx = s.rx := rfl
@[simp] theorem setRsr_mdio (s : State) (m : Word) : (setRsr s m).mdio = s.mdio := rfl
@[simp] theorem setRsr_pw (s : State) (m : Word) : (setRsr s m).pw = s.pw := rfl
@[simp] theorem setRsr_mem (s : State) (m : Word) : (setRsr s m).mem = s.mem := rfl
@[simp] theorem setRsr_sw (s : State) (m : Word) : (setRsr s m).sw = s.sw := rfl
@[simp] theorem setRsr_hostTx (s : State) (m : Word) : (setRsr s m).hostTx = s.hostTx := rfl
@[simp] theorem setRsr_hostRx (s : State) (m : Word) : (setRsr s m).hostRx = s.hostRx := rfl
@[simp] theorem setRsr_hostIsr (s : State) (m : Word) : (setRsr s m).hostIsr = s.hostIsr := rfl
@[simp] theorem setRsr_handler (s : State) (m : Word) : (setRsr s m).handler = s.handler := rfl
@[simp] theorem setRsr_started (s : State) (m : Word) : (setRsr s m).started = s.started := rfl
@[simp] theorem setRsr_rdata (s : State) (m : Word) : (setRsr s m).rdata = s.rdata := rfl
@[simp] theorem setRsr_events (s : State) (m : Word) : (setRsr s m).events = s.events := rfl
@[simp] theorem setRsr_draws (s : State) (m : Word) : (setRsr s m).draws = s.draws := rfl
@[simp] theorem setRsr_drawCount (s : State) (m : Word) : (setRsr s m).drawCount = s.drawCount := rfl

/-! ### `raise` -/

@[simp] theorem raise_cfg (s : State) (m : Word) : (raise s m).cfg = s.cfg := rfl
@[simp] theorem raise_regs (s : State) (m : Word) : (raise s m).regs = { s.regs with isr := s.regs.isr ||| m } := rfl
@[simp] theorem raise_tx (s : State) (m : Word) : (raise s m).tx = s.tx := rfl
@[simp] theorem raise_rx (s : State) (m : Word) : (raise s m).rx = s.rx := rfl
@[simp] theorem raise_mdio (s : State) (m : Word) : (raise s m).mdio = s.mdio := rfl
@[simp] theorem raise_pw (s : State) (m : Word) : (raise s m).pw = s.pw := rfl
@[simp] theorem raise_mem (s : State) (m : Word) : (raise s m).mem = s.mem := rfl
@[simp] theorem raise_sw (s : State) (m : Word) : (raise s m).sw = s.sw := rfl
@[simp] theorem raise_hostTx (s : State) (m : Word) : (raise s m).hostTx = s.hostTx := rfl
@[simp] theorem raise_hostRx (s : State) (m : Word) : (raise s m).hostRx = s.hostRx := rfl
@[simp] theorem raise_hostIsr (s : State) (m : Word) : (raise s m).hostIsr = s.hostIsr := rfl
@[simp] theorem raise_handler (s : State) (m : Word) : (raise s m).handler = s.handler := rfl
@[simp] theorem raise_started (s : State) (m : Word) : (raise s m).started = s.started := rfl
@[simp] theorem raise_rdata (s : State) (m : Word) : (raise s m).rdata = s.rdata := rfl
@[simp] theorem raise_events (s : State) (m : Word) : (raise s m).events = s.events := rfl
@[simp] theorem raise_draws (s : State) (m : Word) : (raise s m).draws = s.draws := rfl
@[simp] theorem raise_drawCount (s : State) (m : Word) : (raise s m).drawCount = s.drawCount := rfl

/-! ### `txOff` -/

@[simp] theorem txOff_cfg (s : State) : (txOff s).cfg = s.cfg := rfl
@[simp] theorem txOff_regs (s : State) : (txOff s).regs = s.regs := rfl
@[simp] theorem txOff_tx (s : State) : (txOff s).tx = { s.tx with state := .idle, frame := none, ptr := s.tx.base } := rfl
@[simp] theorem txOff_rx (s : State) : (txOff s).rx = s.rx := rfl
@[simp] theorem txOff_mdio (s : State) : (txOff s).mdio = s.mdio := rfl
@[simp] theorem txOff_pw (s : State) : (txOff s).pw = s.pw := rfl
@[simp] theorem txOff_mem (s : State) : (txOff s).mem = s.mem := rfl
@[simp] theorem txOff_sw (s : State) : (txOff s).sw = s.sw := rfl
@[simp] theorem txOff_hostTx (s : State) : (txOff s).hostTx = s.hostTx := rfl
@[simp] theorem txOff_hostRx (s : State) : (txOff s).hostRx = s.hostRx := rfl
@[simp] theorem txOff_hostIsr (s : State) : (txOff s).hostIsr = s.hostIsr := rfl
@[simp] theorem txOff_handler (s : State) : (txOff s).handler = s.handler := rfl
@[simp] theorem txOff_started (s : State) : (txOff s).started = s.started := rfl
@[simp] theorem txOff_rdata (s : State) : (txOff s).rdata = s.rdata := rfl
@[simp] theorem txOff_events (s : State) : (txOff s).events = s.events := rfl
@[simp] theorem txOff_draws (s : State) : (txOff s).draws = s.draws := rfl
@[simp] theorem txOff_drawCount (s : State) : (txOff s).drawCount = s.drawCount := rfl

/-! ### `rxOff` -/

@[simp] theorem rxOff_cfg (s : State) : (rxOff s).cfg = s.cfg := rfl
@[simp] theorem rxOff_regs (s : State) : (rxOff s).regs = s.regs := rfl
@[simp] theorem rxOff_tx (s : State) : (rxOff s).tx = s.tx := rfl
@[simp] theorem rxOff_rx (s : State) : (rxOff s).rx = { s.rx with state := .idle } := rfl
@[simp] theorem rxOff_mdio (s : State) : (rxOff s).mdio = s.mdio := rfl
@[simp] theorem rxOff_pw (s : State) : (rxOff s).pw = s.pw := rfl
@[simp] theorem rxOff_mem (s : State) : (rxOff s).mem = s.mem := rfl
@[simp] theorem rxOff_sw (s : State) : (rxOff s).sw = s.sw := rfl
@[simp] theorem rxOff_hostTx (s : State) : (rxOff s).hostTx = s.hostTx := rfl
@[simp] theorem rxOff_hostRx (s : State) : (rxOff s).hostRx = s.hostRx := rfl
@[simp] theorem rxOff_hostIsr (s : State) : (rxOff s).hostIsr = s.hostIsr := rfl
@[simp] theorem rxOff_handler (s : State) : (rxOff s).handler = s.handler := rfl
@[simp] theorem rxOff_started (s : State) : (rxOff s).started = s.started := rfl
@[simp] theorem rxOff_rdata (s : State) : (rxOff s).rdata = s.rdata := rfl
@[simp] theorem rxOff_events (s : State) : (rxOff s).events = s.events := rfl
@[simp] theorem rxOff_draws (s : State) : (rxOff s).draws = s.draws := rfl
@[simp] theorem rxOff_drawCount (s : State) : (rxOff s).drawCount = s.drawCount := rfl

/-! ### `platformReset` -/

@[simp] theorem platformReset_cfg (s : State) : (platformReset s).cfg = s.cfg := rfl
@[simp] theorem platformReset_regs (s : State) : (platformReset s).regs = Regs.reset := rfl
@[simp] theorem platformReset_tx (s : State) : (platformReset s).tx = TxEngine.reset := rfl
@[simp] theorem platformReset_rx (s : State) : (platformReset s).rx = RxEngine.reset := rfl
@[simp] theorem platformReset_mdio (s : State) : (platformReset s).mdio = MdioState.reset := rfl
@[simp] theorem platformReset_pw (s : State) : (platformReset s).pw = [] := rfl
@[simp] theorem platformReset_mem (s : State) : (platformReset s).mem = s.mem := rfl
@[simp] theorem platformReset_sw (s : State) : (platformReset s).sw = s.sw := rfl
@[simp] theorem platformReset_hostTx (s : State) : (platformReset s).hostTx = s.hostTx := rfl
@[simp] theorem platformReset_hostRx (s : State) : (platformReset s).hostRx = s.hostRx := rfl
@[simp] theorem platformReset_hostIsr (s : State) : (platformReset s).hostIsr = s.hostIsr := rfl
@[simp] theorem platformReset_handler (s : State) : (platformReset s).handler = s.handler := rfl
@[simp] theorem platformReset_started (s : State) : (platformReset s).started = s.started := rfl
@[simp] theorem platformReset_rdata (s : State) : (platformReset s).rdata = s.rdata := rfl
@[simp] theorem platformReset_events (s : State) : (platformReset s).events = s.events := rfl
@[simp] theorem platformReset_draws (s : State) : (platformReset s).draws = s.draws := rfl
@[simp] theorem platformReset_drawCount (s : State) : (platformReset s).drawCount = s.drawCount := rfl

/-! ### `mdioStart` -/

@[simp] theorem mdioStart_cfg (s : State) (v : Word) : (mdioStart s v).cfg = s.cfg := rfl
@[simp] theorem mdioStart_regs (s : State) (v : Word) : (mdioStart s v).regs = { s.regs with man := v } := rfl
@[simp] theorem mdioStart_tx (s : State) (v : Word) : (mdioStart s v).tx = s.tx := rfl
@[simp] theorem mdioStart_rx (s : State) (v : Word) : (mdioStart s v).rx = s.rx := rfl
@[simp] theorem mdioStart_mdio (s : State) (v : Word) : (mdioStart s v).mdio = { busy := true, word := v, bit := 0 } := rfl
@[simp] theorem mdioStart_pw (s : State) (v : Word) : (mdioStart s v).pw = s.pw := rfl
@[simp] theorem mdioStart_mem (s : State) (v : Word) : (mdioStart s v).mem = s.mem := rfl
@[simp] theorem mdioStart_sw (s : State) (v : Word) : (mdioStart s v).sw = s.sw := rfl
@[simp] theorem mdioStart_hostTx (s : State) (v : Word) : (mdioStart s v).hostTx = s.hostTx := rfl
@[simp] theorem mdioStart_hostRx (s : State) (v : Word) : (mdioStart s v).hostRx = s.hostRx := rfl
@[simp] theorem mdioStart_hostIsr (s : State) (v : Word) : (mdioStart s v).hostIsr = s.hostIsr := rfl
@[simp] theorem mdioStart_handler (s : State) (v : Word) : (mdioStart s v).handler = s.handler := rfl
@[simp] theorem mdioStart_started (s : State) (v : Word) : (mdioStart s v).started = s.started := rfl
@[simp] theorem mdioStart_rdata (s : State) (v : Word) : (mdioStart s v).rdata = s.rdata := rfl
@[simp] theorem mdioStart_events (s : State) (v : Word) : (mdioStart s v).events = s.events := rfl
@[simp] theorem mdioStart_draws (s : State) (v : Word) : (mdioStart s v).draws = s.draws := rfl
@[simp] theorem mdioStart_drawCount (s : State) (v : Word) : (mdioStart s v).drawCount = s.drawCount := rfl

/-! ### `enterInterrupt` -/

@[simp] theorem enterInterrupt_cfg (s : State) : (enterInterrupt s).cfg = s.cfg := rfl
@[simp] theorem enterInterrupt_regs (s : State) : (enterInterrupt s).regs = s.regs := rfl
@[simp] theorem enterInterrupt_tx (s : State) : (enterInterrupt s).tx = s.tx := rfl
@[simp] theorem enterInterrupt_rx (s : State) : (enterInterrupt s).rx = s.rx := rfl
@[simp] theorem enterInterrupt_mdio (s : State) : (enterInterrupt s).mdio = s.mdio := rfl
@[simp] theorem enterInterrupt_pw (s : State) : (enterInterrupt s).pw = s.pw := rfl
@[simp] theorem enterInterrupt_mem (s : State) : (enterInterrupt s).mem = s.mem := rfl
@[simp] theorem enterInterrupt_sw (s : State) : (enterInterrupt s).sw = s.sw := rfl
@[simp] theorem enterInterrupt_hostTx (s : State) : (enterInterrupt s).hostTx = s.hostTx := rfl
@[simp] theorem enterInterrupt_hostRx (s : State) : (enterInterrupt s).hostRx = s.hostRx := rfl
@[simp] theorem enterInterrupt_hostIsr (s : State) : (enterInterrupt s).hostIsr = { s.hostIsr with stack := [.eventIsr] } := rfl
@[simp] theorem enterInterrupt_handler (s : State) : (enterInterrupt s).handler = s.handler := rfl
@[simp] theorem enterInterrupt_started (s : State) : (enterInterrupt s).started = s.started := rfl
@[simp] theorem enterInterrupt_rdata (s : State) : (enterInterrupt s).rdata = s.rdata := rfl
@[simp] theorem enterInterrupt_events (s : State) : (enterInterrupt s).events = s.events := rfl
@[simp] theorem enterInterrupt_draws (s : State) : (enterInterrupt s).draws = s.draws := rfl
@[simp] theorem enterInterrupt_drawCount (s : State) : (enterInterrupt s).drawCount = s.drawCount := rfl

/-! ### `returnFromInterrupt` -/

@[simp] theorem returnFromInterrupt_cfg (s : State) (v : Word) : (returnFromInterrupt s v).cfg = s.cfg := rfl
@[simp] theorem returnFromInterrupt_regs (s : State) (v : Word) : (returnFromInterrupt s v).regs = s.regs := rfl
@[simp] theorem returnFromInterrupt_tx (s : State) (v : Word) : (returnFromInterrupt s v).tx = s.tx := rfl
@[simp] theorem returnFromInterrupt_rx (s : State) (v : Word) : (returnFromInterrupt s v).rx = s.rx := rfl
@[simp] theorem returnFromInterrupt_mdio (s : State) (v : Word) : (returnFromInterrupt s v).mdio = s.mdio := rfl
@[simp] theorem returnFromInterrupt_pw (s : State) (v : Word) : (returnFromInterrupt s v).pw = s.pw := rfl
@[simp] theorem returnFromInterrupt_mem (s : State) (v : Word) : (returnFromInterrupt s v).mem = s.mem := rfl
@[simp] theorem returnFromInterrupt_sw (s : State) (v : Word) : (returnFromInterrupt s v).sw = s.sw := rfl
@[simp] theorem returnFromInterrupt_hostTx (s : State) (v : Word) : (returnFromInterrupt s v).hostTx = s.hostTx := rfl
@[simp] theorem returnFromInterrupt_hostRx (s : State) (v : Word) : (returnFromInterrupt s v).hostRx = s.hostRx := rfl
@[simp] theorem returnFromInterrupt_hostIsr (s : State) (v : Word) : (returnFromInterrupt s v).hostIsr = { s.hostIsr with stack := [], ret := v } := rfl
@[simp] theorem returnFromInterrupt_handler (s : State) (v : Word) : (returnFromInterrupt s v).handler = s.handler := rfl
@[simp] theorem returnFromInterrupt_started (s : State) (v : Word) : (returnFromInterrupt s v).started = s.started := rfl
@[simp] theorem returnFromInterrupt_rdata (s : State) (v : Word) : (returnFromInterrupt s v).rdata = s.rdata := rfl
@[simp] theorem returnFromInterrupt_events (s : State) (v : Word) : (returnFromInterrupt s v).events = s.events := rfl
@[simp] theorem returnFromInterrupt_draws (s : State) (v : Word) : (returnFromInterrupt s v).draws = s.draws := rfl
@[simp] theorem returnFromInterrupt_drawCount (s : State) (v : Word) : (returnFromInterrupt s v).drawCount = s.drawCount := rfl

/-! ### `stopAtBoundary` -/

@[simp] theorem stopAtBoundary_cfg (s : State) : (stopAtBoundary s).cfg = s.cfg := rfl
@[simp] theorem stopAtBoundary_regs (s : State) : (stopAtBoundary s).regs = { s.regs with tsr := s.regs.tsr ||| tsrUbr, isr := s.regs.isr ||| isrTxubr } := rfl
@[simp] theorem stopAtBoundary_tx (s : State) : (stopAtBoundary s).tx = { s.tx with state := .idle } := rfl
@[simp] theorem stopAtBoundary_rx (s : State) : (stopAtBoundary s).rx = s.rx := rfl
@[simp] theorem stopAtBoundary_mdio (s : State) : (stopAtBoundary s).mdio = s.mdio := rfl
@[simp] theorem stopAtBoundary_pw (s : State) : (stopAtBoundary s).pw = s.pw := rfl
@[simp] theorem stopAtBoundary_mem (s : State) : (stopAtBoundary s).mem = s.mem := rfl
@[simp] theorem stopAtBoundary_sw (s : State) : (stopAtBoundary s).sw = s.sw := rfl
@[simp] theorem stopAtBoundary_hostTx (s : State) : (stopAtBoundary s).hostTx = s.hostTx := rfl
@[simp] theorem stopAtBoundary_hostRx (s : State) : (stopAtBoundary s).hostRx = s.hostRx := rfl
@[simp] theorem stopAtBoundary_hostIsr (s : State) : (stopAtBoundary s).hostIsr = s.hostIsr := rfl
@[simp] theorem stopAtBoundary_handler (s : State) : (stopAtBoundary s).handler = s.handler := rfl
@[simp] theorem stopAtBoundary_started (s : State) : (stopAtBoundary s).started = s.started := rfl
@[simp] theorem stopAtBoundary_rdata (s : State) : (stopAtBoundary s).rdata = s.rdata := rfl
@[simp] theorem stopAtBoundary_events (s : State) : (stopAtBoundary s).events = s.events := rfl
@[simp] theorem stopAtBoundary_draws (s : State) : (stopAtBoundary s).draws = s.draws := rfl
@[simp] theorem stopAtBoundary_drawCount (s : State) : (stopAtBoundary s).drawCount = s.drawCount := rfl

/-! ### `dropFrame` -/

@[simp] theorem dropFrame_cfg (s : State) : (dropFrame s).cfg = s.cfg := rfl
@[simp] theorem dropFrame_regs (s : State) : (dropFrame s).regs = { s.regs with rsr := s.regs.rsr ||| rsrBna, isr := s.regs.isr ||| isrRxubr } := rfl
@[simp] theorem dropFrame_tx (s : State) : (dropFrame s).tx = s.tx := rfl
@[simp] theorem dropFrame_rx (s : State) : (dropFrame s).rx = { s.rx with state := .idle } := rfl
@[simp] theorem dropFrame_mdio (s : State) : (dropFrame s).mdio = s.mdio := rfl
@[simp] theorem dropFrame_pw (s : State) : (dropFrame s).pw = s.pw := rfl
@[simp] theorem dropFrame_mem (s : State) : (dropFrame s).mem = s.mem := rfl
@[simp] theorem dropFrame_sw (s : State) : (dropFrame s).sw = s.sw := rfl
@[simp] theorem dropFrame_hostTx (s : State) : (dropFrame s).hostTx = s.hostTx := rfl
@[simp] theorem dropFrame_hostRx (s : State) : (dropFrame s).hostRx = s.hostRx := rfl
@[simp] theorem dropFrame_hostIsr (s : State) : (dropFrame s).hostIsr = s.hostIsr := rfl
@[simp] theorem dropFrame_handler (s : State) : (dropFrame s).handler = s.handler := rfl
@[simp] theorem dropFrame_started (s : State) : (dropFrame s).started = s.started := rfl
@[simp] theorem dropFrame_rdata (s : State) : (dropFrame s).rdata = s.rdata := rfl
@[simp] theorem dropFrame_events (s : State) : (dropFrame s).events = s.events := rfl
@[simp] theorem dropFrame_draws (s : State) : (dropFrame s).draws = s.draws := rfl
@[simp] theorem dropFrame_drawCount (s : State) : (dropFrame s).drawCount = s.drawCount := rfl

/-! ### `mdioDone` -/

@[simp] theorem mdioDone_cfg (s : State) (v : Word) : (mdioDone s v).cfg = s.cfg := rfl
@[simp] theorem mdioDone_regs (s : State) (v : Word) : (mdioDone s v).regs = { s.regs with man := v, isr := s.regs.isr ||| isrMfd } := rfl
@[simp] theorem mdioDone_tx (s : State) (v : Word) : (mdioDone s v).tx = s.tx := rfl
@[simp] theorem mdioDone_rx (s : State) (v : Word) : (mdioDone s v).rx = s.rx := rfl
@[simp] theorem mdioDone_mdio (s : State) (v : Word) : (mdioDone s v).mdio = { s.mdio with busy := false, bit := 0 } := rfl
@[simp] theorem mdioDone_pw (s : State) (v : Word) : (mdioDone s v).pw = s.pw := rfl
@[simp] theorem mdioDone_mem (s : State) (v : Word) : (mdioDone s v).mem = s.mem := rfl
@[simp] theorem mdioDone_sw (s : State) (v : Word) : (mdioDone s v).sw = s.sw := rfl
@[simp] theorem mdioDone_hostTx (s : State) (v : Word) : (mdioDone s v).hostTx = s.hostTx := rfl
@[simp] theorem mdioDone_hostRx (s : State) (v : Word) : (mdioDone s v).hostRx = s.hostRx := rfl
@[simp] theorem mdioDone_hostIsr (s : State) (v : Word) : (mdioDone s v).hostIsr = s.hostIsr := rfl
@[simp] theorem mdioDone_handler (s : State) (v : Word) : (mdioDone s v).handler = s.handler := rfl
@[simp] theorem mdioDone_started (s : State) (v : Word) : (mdioDone s v).started = s.started := rfl
@[simp] theorem mdioDone_rdata (s : State) (v : Word) : (mdioDone s v).rdata = s.rdata := rfl
@[simp] theorem mdioDone_events (s : State) (v : Word) : (mdioDone s v).events = s.events := rfl
@[simp] theorem mdioDone_draws (s : State) (v : Word) : (mdioDone s v).draws = s.draws := rfl
@[simp] theorem mdioDone_drawCount (s : State) (v : Word) : (mdioDone s v).drawCount = s.drawCount := rfl

/-! ### `redraw` -/

@[simp] theorem redraw_cfg (s : State) : (redraw s).cfg = s.cfg := rfl
@[simp] theorem redraw_regs (s : State) : (redraw s).regs = s.regs := rfl
@[simp] theorem redraw_tx (s : State) : (redraw s).tx = s.tx := rfl
@[simp] theorem redraw_rx (s : State) : (redraw s).rx = s.rx := rfl
@[simp] theorem redraw_mdio (s : State) : (redraw s).mdio = s.mdio := rfl
@[simp] theorem redraw_pw (s : State) : (redraw s).pw = s.pw := rfl
@[simp] theorem redraw_mem (s : State) : (redraw s).mem = s.mem := rfl
@[simp] theorem redraw_sw (s : State) : (redraw s).sw = s.sw := rfl
@[simp] theorem redraw_hostTx (s : State) : (redraw s).hostTx = s.hostTx := rfl
@[simp] theorem redraw_hostRx (s : State) : (redraw s).hostRx = s.hostRx := rfl
@[simp] theorem redraw_hostIsr (s : State) : (redraw s).hostIsr = s.hostIsr := rfl
@[simp] theorem redraw_handler (s : State) : (redraw s).handler = s.handler := rfl
@[simp] theorem redraw_started (s : State) : (redraw s).started = s.started := rfl
@[simp] theorem redraw_rdata (s : State) : (redraw s).rdata = s.rdata := rfl
@[simp] theorem redraw_events (s : State) : (redraw s).events = s.events := rfl
@[simp] theorem redraw_draws (s : State) : (redraw s).draws = Config.freeDraws s.drawCount := rfl
@[simp] theorem redraw_drawCount (s : State) : (redraw s).drawCount = s.drawCount + 1 := rfl

/-! ### `withAgent` -/

@[simp] theorem withAgent_cfg (s : State) (g : Agent) : (withAgent s g).cfg = s.cfg := rfl
@[simp] theorem withAgent_regs (s : State) (g : Agent) : (withAgent s g).regs = s.regs := rfl
@[simp] theorem withAgent_tx (s : State) (g : Agent) : (withAgent s g).tx = s.tx := rfl
@[simp] theorem withAgent_rx (s : State) (g : Agent) : (withAgent s g).rx = s.rx := rfl
@[simp] theorem withAgent_mdio (s : State) (g : Agent) : (withAgent s g).mdio = s.mdio := rfl
@[simp] theorem withAgent_pw (s : State) (g : Agent) : (withAgent s g).pw = s.pw := rfl
@[simp] theorem withAgent_mem (s : State) (g : Agent) : (withAgent s g).mem = s.mem := rfl
@[simp] theorem withAgent_sw (s : State) (g : Agent) : (withAgent s g).sw = s.sw := rfl
@[simp] theorem withAgent_hostTx (s : State) (g : Agent) : (withAgent s g).hostTx = s.hostTx := rfl
@[simp] theorem withAgent_hostRx (s : State) (g : Agent) : (withAgent s g).hostRx = s.hostRx := rfl
@[simp] theorem withAgent_hostIsr (s : State) (g : Agent) : (withAgent s g).hostIsr = s.hostIsr := rfl
@[simp] theorem withAgent_handler (s : State) (g : Agent) : (withAgent s g).handler = s.handler := rfl
@[simp] theorem withAgent_started (s : State) (g : Agent) : (withAgent s g).started = s.started := rfl
@[simp] theorem withAgent_rdata (s : State) (g : Agent) : (withAgent s g).rdata = s.rdata := rfl
@[simp] theorem withAgent_events (s : State) (g : Agent) : (withAgent s g).events = s.events := rfl
@[simp] theorem withAgent_draws (s : State) (g : Agent) : (withAgent s g).draws = { s.draws with agent := g } := rfl
@[simp] theorem withAgent_drawCount (s : State) (g : Agent) : (withAgent s g).drawCount = s.drawCount := rfl

/-! ### `txStart` changes the TX engine only -/

@[simp] theorem txStart_cfg (s : State) : (txStart s).cfg = s.cfg := by
  unfold txStart; split <;> rfl
@[simp] theorem txStart_regs (s : State) : (txStart s).regs = s.regs := by
  unfold txStart; split <;> rfl
@[simp] theorem txStart_rx (s : State) : (txStart s).rx = s.rx := by
  unfold txStart; split <;> rfl
@[simp] theorem txStart_mdio (s : State) : (txStart s).mdio = s.mdio := by
  unfold txStart; split <;> rfl
@[simp] theorem txStart_pw (s : State) : (txStart s).pw = s.pw := by
  unfold txStart; split <;> rfl
@[simp] theorem txStart_mem (s : State) : (txStart s).mem = s.mem := by
  unfold txStart; split <;> rfl
@[simp] theorem txStart_sw (s : State) : (txStart s).sw = s.sw := by
  unfold txStart; split <;> rfl
@[simp] theorem txStart_hostTx (s : State) : (txStart s).hostTx = s.hostTx := by
  unfold txStart; split <;> rfl
@[simp] theorem txStart_hostRx (s : State) : (txStart s).hostRx = s.hostRx := by
  unfold txStart; split <;> rfl
@[simp] theorem txStart_hostIsr (s : State) : (txStart s).hostIsr = s.hostIsr := by
  unfold txStart; split <;> rfl
@[simp] theorem txStart_handler (s : State) : (txStart s).handler = s.handler := by
  unfold txStart; split <;> rfl
@[simp] theorem txStart_started (s : State) : (txStart s).started = s.started := by
  unfold txStart; split <;> rfl
@[simp] theorem txStart_rdata (s : State) : (txStart s).rdata = s.rdata := by
  unfold txStart; split <;> rfl
@[simp] theorem txStart_events (s : State) : (txStart s).events = s.events := by
  unfold txStart; split <;> rfl
@[simp] theorem txStart_draws (s : State) : (txStart s).draws = s.draws := by
  unfold txStart; split <;> rfl
@[simp] theorem txStart_drawCount (s : State) : (txStart s).drawCount = s.drawCount := by
  unfold txStart; split <;> rfl

theorem txStart_tx (s : State) : (txStart s).tx =
    if txEnabled s && s.tx.state = .idle then { s.tx with state := .active, frame := none } else s.tx := by
  unfold txStart; split <;> rfl

/-! ### `finishFrame` writes memory, the status registers and the history -/

@[simp] theorem finishFrame_cfg (s : State) (fr : TxFrame) (o : TxOutcome) : (finishFrame s fr o).cfg = s.cfg := rfl
@[simp] theorem finishFrame_tx (s : State) (fr : TxFrame) (o : TxOutcome) : (finishFrame s fr o).tx = s.tx := rfl
@[simp] theorem finishFrame_rx (s : State) (fr : TxFrame) (o : TxOutcome) : (finishFrame s fr o).rx = s.rx := rfl
@[simp] theorem finishFrame_mdio (s : State) (fr : TxFrame) (o : TxOutcome) : (finishFrame s fr o).mdio = s.mdio := rfl
@[simp] theorem finishFrame_pw (s : State) (fr : TxFrame) (o : TxOutcome) : (finishFrame s fr o).pw = s.pw := rfl
@[simp] theorem finishFrame_sw (s : State) (fr : TxFrame) (o : TxOutcome) : (finishFrame s fr o).sw = s.sw := rfl
@[simp] theorem finishFrame_hostTx (s : State) (fr : TxFrame) (o : TxOutcome) : (finishFrame s fr o).hostTx = s.hostTx := rfl
@[simp] theorem finishFrame_hostRx (s : State) (fr : TxFrame) (o : TxOutcome) : (finishFrame s fr o).hostRx = s.hostRx := rfl
@[simp] theorem finishFrame_hostIsr (s : State) (fr : TxFrame) (o : TxOutcome) : (finishFrame s fr o).hostIsr = s.hostIsr := rfl
@[simp] theorem finishFrame_handler (s : State) (fr : TxFrame) (o : TxOutcome) : (finishFrame s fr o).handler = s.handler := rfl
@[simp] theorem finishFrame_started (s : State) (fr : TxFrame) (o : TxOutcome) : (finishFrame s fr o).started = s.started := rfl
@[simp] theorem finishFrame_rdata (s : State) (fr : TxFrame) (o : TxOutcome) : (finishFrame s fr o).rdata = s.rdata := rfl
@[simp] theorem finishFrame_draws (s : State) (fr : TxFrame) (o : TxOutcome) : (finishFrame s fr o).draws = s.draws := rfl
@[simp] theorem finishFrame_drawCount (s : State) (fr : TxFrame) (o : TxOutcome) : (finishFrame s fr o).drawCount = s.drawCount := rfl
@[simp] theorem finishFrame_mem (s : State) (fr : TxFrame) (o : TxOutcome) : (finishFrame s fr o).mem =
    writeWord s.mem (fr.first + 4) (readWord s.mem (fr.first + 4) ||| outcomeDescBits o) := rfl
@[simp] theorem finishFrame_events (s : State) (fr : TxFrame) (o : TxOutcome) :
    (finishFrame s fr o).events = s.events ++ [.txFrame fr.bytes o] := rfl
@[simp] theorem finishFrame_regs (s : State) (fr : TxFrame) (o : TxOutcome) : (finishFrame s fr o).regs =
    { s.regs with tsr := s.regs.tsr ||| outcomeTsr o, isr := s.regs.isr ||| outcomeIsr o } := rfl

/-! ### `noteIrq` and `endStep` -/

@[simp] theorem noteIrq_cfg (b s : State) : (noteIrq b s).cfg = s.cfg := by
  unfold noteIrq; split <;> rfl
@[simp] theorem noteIrq_regs (b s : State) : (noteIrq b s).regs = s.regs := by
  unfold noteIrq; split <;> rfl
@[simp] theorem noteIrq_tx (b s : State) : (noteIrq b s).tx = s.tx := by
  unfold noteIrq; split <;> rfl
@[simp] theorem noteIrq_rx (b s : State) : (noteIrq b s).rx = s.rx := by
  unfold noteIrq; split <;> rfl
@[simp] theorem noteIrq_mdio (b s : State) : (noteIrq b s).mdio = s.mdio := by
  unfold noteIrq; split <;> rfl
@[simp] theorem noteIrq_pw (b s : State) : (noteIrq b s).pw = s.pw := by
  unfold noteIrq; split <;> rfl
@[simp] theorem noteIrq_mem (b s : State) : (noteIrq b s).mem = s.mem := by
  unfold noteIrq; split <;> rfl
@[simp] theorem noteIrq_sw (b s : State) : (noteIrq b s).sw = s.sw := by
  unfold noteIrq; split <;> rfl
@[simp] theorem noteIrq_hostTx (b s : State) : (noteIrq b s).hostTx = s.hostTx := by
  unfold noteIrq; split <;> rfl
@[simp] theorem noteIrq_hostRx (b s : State) : (noteIrq b s).hostRx = s.hostRx := by
  unfold noteIrq; split <;> rfl
@[simp] theorem noteIrq_hostIsr (b s : State) : (noteIrq b s).hostIsr = s.hostIsr := by
  unfold noteIrq; split <;> rfl
@[simp] theorem noteIrq_handler (b s : State) : (noteIrq b s).handler = s.handler := by
  unfold noteIrq; split <;> rfl
@[simp] theorem noteIrq_started (b s : State) : (noteIrq b s).started = s.started := by
  unfold noteIrq; split <;> rfl
@[simp] theorem noteIrq_rdata (b s : State) : (noteIrq b s).rdata = s.rdata := by
  unfold noteIrq; split <;> rfl
@[simp] theorem noteIrq_draws (b s : State) : (noteIrq b s).draws = s.draws := by
  unfold noteIrq; split <;> rfl
@[simp] theorem noteIrq_drawCount (b s : State) : (noteIrq b s).drawCount = s.drawCount := by
  unfold noteIrq; split <;> rfl
@[simp] theorem endStep_cfg (b s : State) : (endStep b s).cfg = s.cfg := by
  simp [endStep]
@[simp] theorem endStep_regs (b s : State) : (endStep b s).regs = s.regs := by
  simp [endStep]
@[simp] theorem endStep_tx (b s : State) : (endStep b s).tx = s.tx := by
  simp [endStep]
@[simp] theorem endStep_rx (b s : State) : (endStep b s).rx = s.rx := by
  simp [endStep]
@[simp] theorem endStep_mdio (b s : State) : (endStep b s).mdio = s.mdio := by
  simp [endStep]
@[simp] theorem endStep_pw (b s : State) : (endStep b s).pw = s.pw := by
  simp [endStep]
@[simp] theorem endStep_mem (b s : State) : (endStep b s).mem = s.mem := by
  simp [endStep]
@[simp] theorem endStep_sw (b s : State) : (endStep b s).sw = s.sw := by
  simp [endStep]
@[simp] theorem endStep_hostTx (b s : State) : (endStep b s).hostTx = s.hostTx := by
  simp [endStep]
@[simp] theorem endStep_hostRx (b s : State) : (endStep b s).hostRx = s.hostRx := by
  simp [endStep]
@[simp] theorem endStep_hostIsr (b s : State) : (endStep b s).hostIsr = s.hostIsr := by
  simp [endStep]
@[simp] theorem endStep_handler (b s : State) : (endStep b s).handler = s.handler := by
  simp [endStep]
@[simp] theorem endStep_started (b s : State) : (endStep b s).started = s.started := by
  simp [endStep]
@[simp] theorem endStep_rdata (b s : State) : (endStep b s).rdata = s.rdata := by
  simp [endStep]

@[simp] theorem endStep_drawCount (b s : State) : (endStep b s).drawCount = s.drawCount + 1 := by simp [endStep]

@[simp] theorem endStep_draws (b s : State) : (endStep b s).draws = Config.freeDraws s.drawCount := by simp [endStep]

/-! ### `putContext` changes the software state and the one context -/

@[simp] theorem putContext_cfg (s : State) (id : ContextId) (st : List Point) (n : Next) :
    (putContext s id st n).cfg = s.cfg := by
  cases id <;> simp only [putContext] <;> (try split) <;> rfl
@[simp] theorem putContext_regs (s : State) (id : ContextId) (st : List Point) (n : Next) :
    (putContext s id st n).regs = s.regs := by
  cases id <;> simp only [putContext] <;> (try split) <;> rfl
@[simp] theorem putContext_tx (s : State) (id : ContextId) (st : List Point) (n : Next) :
    (putContext s id st n).tx = s.tx := by
  cases id <;> simp only [putContext] <;> (try split) <;> rfl
@[simp] theorem putContext_rx (s : State) (id : ContextId) (st : List Point) (n : Next) :
    (putContext s id st n).rx = s.rx := by
  cases id <;> simp only [putContext] <;> (try split) <;> rfl
@[simp] theorem putContext_mdio (s : State) (id : ContextId) (st : List Point) (n : Next) :
    (putContext s id st n).mdio = s.mdio := by
  cases id <;> simp only [putContext] <;> (try split) <;> rfl
@[simp] theorem putContext_pw (s : State) (id : ContextId) (st : List Point) (n : Next) :
    (putContext s id st n).pw = s.pw := by
  cases id <;> simp only [putContext] <;> (try split) <;> rfl
@[simp] theorem putContext_mem (s : State) (id : ContextId) (st : List Point) (n : Next) :
    (putContext s id st n).mem = s.mem := by
  cases id <;> simp only [putContext] <;> (try split) <;> rfl
@[simp] theorem putContext_handler (s : State) (id : ContextId) (st : List Point) (n : Next) :
    (putContext s id st n).handler = s.handler := by
  cases id <;> simp only [putContext] <;> (try split) <;> rfl
@[simp] theorem putContext_started (s : State) (id : ContextId) (st : List Point) (n : Next) :
    (putContext s id st n).started = s.started := by
  cases id <;> simp only [putContext] <;> (try split) <;> rfl
@[simp] theorem putContext_rdata (s : State) (id : ContextId) (st : List Point) (n : Next) :
    (putContext s id st n).rdata = s.rdata := by
  cases id <;> simp only [putContext] <;> (try split) <;> rfl
@[simp] theorem putContext_events (s : State) (id : ContextId) (st : List Point) (n : Next) :
    (putContext s id st n).events = s.events := by
  cases id <;> simp only [putContext] <;> (try split) <;> rfl
@[simp] theorem putContext_draws (s : State) (id : ContextId) (st : List Point) (n : Next) :
    (putContext s id st n).draws = s.draws := by
  cases id <;> simp only [putContext] <;> (try split) <;> rfl
@[simp] theorem putContext_drawCount (s : State) (id : ContextId) (st : List Point) (n : Next) :
    (putContext s id st n).drawCount = s.drawCount := by
  cases id <;> simp only [putContext] <;> (try split) <;> rfl
@[simp] theorem putContext_sw (s : State) (id : ContextId) (st : List Point) (n : Next) :
    (putContext s id st n).sw = n.sw := by
  cases id <;> simp only [putContext] <;> (try split) <;> rfl

end Sys2Proof.Machine
end

