-- ==== Sys2Proof/Laws/Ops.lean ====
section
/-!
SUPPORT. For each shared operation of the machine, everything it can do when it answers a next state, so that a proof cites
these and unfolds none of them.
-/

namespace Sys2Proof.Machine

/-! ### Outcomes -/

@[simp] theorem andThen_next {α β : Type} (a : α) (k : α → Result β) : andThen (.next a) k = k a := rfl

@[simp] theorem andThen_fault {α β : Type} (r : Fault) (k : α → Result β) : andThen (.fault r) k = .fault r := rfl

@[simp] theorem andThen_refused {α β : Type} (r : Refusal) (k : α → Result β) :
    andThen (.refused r) k = .refused r := rfl

theorem andThen_eq_next {α β : Type} {o : Result α} {k : α → Result β} {b : β} :
    andThen o k = .next b ↔ ∃ a, o = .next a ∧ k a = .next b := by
  cases o <;> simp

theorem ifAccepted_eq_next {r : Reg} {v : Word} {k : Result State} {t : State} :
    ifAccepted r v k = .next t ↔ Reg.accepts r v = true ∧ k = .next t := by
  unfold ifAccepted; split <;> simp_all

theorem ifQueueAligned_eq_next {v : Word} {k : Result State} {t : State} :
    ifQueueAligned v k = .next t ↔ queueAligned v = true ∧ k = .next t := by
  unfold ifQueueAligned; split <;> simp_all

/-! ### Pointers -/

theorem advance_eq_some {base ptr p : Word} {wrap : Bool} :
    advance base ptr wrap = some p ↔
      (wrap = true ∧ p = base) ∨ (wrap = false ∧ ptr ≠ 0xFFFFFFF8 ∧ p = ptr + 8) := by
  cases wrap <;> simp [advance, eq_comm]

/-- The low three bits of a sum with 8 are those of the other operand. -/
theorem add_eight_and_seven (p : Word) : (p + 8) &&& 0x7 = p &&& 0x7 := by
  apply BitVec.eq_of_toNat_eq
  have e : ∀ n : Nat, n &&& 7 = n % 8 := fun n => Nat.and_two_pow_sub_one_eq_mod n 3
  simp only [BitVec.toNat_and, BitVec.toNat_add]
  change (p.toNat + 8) % 4294967296 &&& 7 = p.toNat &&& 7
  rw [e, e]
  omega

/-- A pointer stays 8-aligned (10_state.md R71). -/
theorem advance_aligned {base ptr p : Word} {wrap : Bool} (hb : base &&& 0x7 = 0) (hp : ptr &&& 0x7 = 0)
    (h : advance base ptr wrap = some p) : p &&& 0x7 = 0 := by
  rcases advance_eq_some.1 h with ⟨-, rfl⟩ | ⟨-, -, rfl⟩
  · exact hb
  · rw [add_eight_and_seven, hp]

theorem pointerAfterLast_aligned {s : State} {wrap : Bool} {o : TxOutcome} {p : Word} (hb : s.tx.base &&& 0x7 = 0)
    (hp : s.tx.ptr &&& 0x7 = 0) (h : pointerAfterLast s wrap o = some p) : p &&& 0x7 = 0 := by
  unfold pointerAfterLast at h
  split at h
  · exact advance_aligned hb hp h
  · split at h
    · cases h; exact hb
    · exact advance_aligned hb hp h

/-! ### The TX engine -/

theorem whileActive_eq_next {s t : State} {k : Result State} :
    whileActive s k = .next t ↔ (s.tx.state = .active ∧ k = .next t) ∨ (s.tx.state = .idle ∧ t = s) := by
  unfold whileActive
  cases h : s.tx.state <;> simp
  exact eq_comm

/-- A descriptor whose checks pass (42_tx_engine.md R306). -/
def TxChecked (f : TxFields) (s : State) : Prop :=
  TxFields.wf f = true ∧ descriptorOk s.cfg s.tx.ptr = true ∧ readWord s.mem s.tx.ptr &&& 0x3 = 0
    ∧ admitsRange s.cfg (readWord s.mem s.tx.ptr) f.len.toNat = true

theorem txData_eq_next {f : TxFields} {s : State} {data : List Byte} :
    txData f s = .next data ↔
      TxChecked f s ∧ data = readBytes s.mem (readWord s.mem s.tx.ptr) f.len.toNat := by
  unfold txData TxChecked
  split
  · simp_all
  · split
    · simp_all
    · split
      · simp_all
      · split
        · simp_all
        · simp_all
          exact eq_comm

theorem execTxdBuf_eq_next {f : TxFields} {s t : State} :
    execTxdBuf f s = .next t ↔
      (s.tx.state = .idle ∧ t = s) ∨
      (s.tx.state = .active ∧ TxChecked f s ∧ ∃ p, advance s.tx.base s.tx.ptr f.wrap = some p ∧
        t = { s with tx := { s.tx with
          ptr := p
          frame := some (gather s (readBytes s.mem (readWord s.mem s.tx.ptr) f.len.toNat)) } }) := by
  unfold execTxdBuf
  rw [whileActive_eq_next, andThen_eq_next]
  constructor
  · rintro (⟨ha, data, hd, h⟩ | ⟨hi, h⟩)
    · obtain ⟨hc, rfl⟩ := txData_eq_next.1 hd
      refine .inr ⟨ha, hc, ?_⟩
      split at h
      · cases h
      · next p hp => cases h; exact ⟨p, hp, rfl⟩
    · exact .inl ⟨hi, h⟩
  · rintro (⟨hi, h⟩ | ⟨ha, hc, p, hp, rfl⟩)
    · exact .inr ⟨hi, h⟩
    · exact .inl ⟨ha, _, txData_eq_next.2 ⟨hc, rfl⟩, by simp [hp]⟩

theorem execTxdLast_eq_next {f : TxFields} {s t : State} :
    execTxdLast f s = .next t ↔
      (s.tx.state = .idle ∧ t = s) ∨
      (s.tx.state = .active ∧ TxChecked f s ∧ ∃ p,
        pointerAfterLast s f.wrap (mediumOutcome (fullDuplex s) s.draws.outcome) = some p ∧
        descriptorOk s.cfg (gather s (readBytes s.mem (readWord s.mem s.tx.ptr) f.len.toNat)).first = true ∧
        t = afterLast s (gather s (readBytes s.mem (readWord s.mem s.tx.ptr) f.len.toNat))
          (mediumOutcome (fullDuplex s) s.draws.outcome) p) := by
  unfold execTxdLast
  rw [whileActive_eq_next, andThen_eq_next]
  constructor
  · rintro (⟨ha, data, hd, h⟩ | ⟨hi, h⟩)
    · obtain ⟨hc, rfl⟩ := txData_eq_next.1 hd
      refine .inr ⟨ha, hc, ?_⟩
      dsimp only at h
      split at h
      · cases h
      · next hf =>
        split at h
        · cases h
        · next p hp => cases h; exact ⟨p, hp, by simpa using hf, rfl⟩
    · exact .inl ⟨hi, h⟩
  · rintro (⟨hi, h⟩ | ⟨ha, hc, p, hp, hf, rfl⟩)
    · exact .inr ⟨hi, h⟩
    · exact .inl ⟨ha, _, txData_eq_next.2 ⟨hc, rfl⟩, by simp [hp, hf]⟩

theorem execTxdStop_eq_next {last : Bool} {f : TxFields} {s t : State} :
    execTxdStop last f s = .next t ↔
      (s.tx.state = .idle ∧ t = s) ∨
      (s.tx.state = .active ∧ s.tx.frame = none ∧ t = stopAtBoundary s) ∨
      (s.tx.state = .active ∧ ∃ fr, s.tx.frame = some fr ∧ descriptorOk s.cfg fr.first = true ∧
        t = stopMidFrame s fr) := by
  unfold execTxdStop
  rw [whileActive_eq_next]
  cases hf : s.tx.frame with
  | none =>
    cases hs : s.tx.state <;> simp
    exact eq_comm
  | some fr =>
    cases hd : descriptorOk s.cfg fr.first <;> cases hs : s.tx.state <;> simp [hd]
    exact eq_comm

/-! ### The RX engine -/

theorem whileReceiving_eq_next {s t : State} {k : RxFrame → Result State} :
    whileReceiving s k = .next t ↔
      (∃ g, s.rx.state = .frame g ∧ rxEnabled s = true ∧ k g = .next t) ∨
      ((s.rx.state = .idle ∨ rxEnabled s = false) ∧ t = s) := by
  unfold whileReceiving
  cases hr : s.rx.state with
  | idle => simpa using eq_comm
  | frame g =>
    cases he : rxEnabled s <;> simp
    exact eq_comm

theorem execRxdFree_eq_next {f : RxFields} {s t : State} :
    execRxdFree f s = .next t ↔
      ((s.rx.state = .idle ∨ rxEnabled s = false) ∧ t = s) ∨
      ∃ g, s.rx.state = .frame g ∧ rxEnabled s = true ∧ admitsRange s.cfg (rxBufferOf f) rxBufSize = true ∧
        descriptorOk s.cfg s.rx.ptr = true ∧
        ∃ p, advance s.rx.base s.rx.ptr f.wrap = some p ∧ t = afterFill f s g p := by
  unfold execRxdFree
  rw [whileReceiving_eq_next]
  constructor
  · rintro (⟨g, hg, he, h⟩ | h)
    · split at h
      · cases h
      · next h1 =>
        split at h
        · cases h
        · next h2 =>
          split at h
          · cases h
          · next p hp => cases h; exact .inr ⟨g, hg, he, by simpa using h1, by simpa using h2, p, hp, rfl⟩
    · exact .inl h
  · rintro (h | ⟨g, hg, he, h1, h2, p, hp, rfl⟩)
    · exact .inr h
    · exact .inl ⟨g, hg, he, by simp [h1, h2, hp]⟩

theorem execRxdFull_eq_next {f : RxFields} {s t : State} :
    execRxdFull f s = .next t ↔
      ((s.rx.state = .idle ∨ rxEnabled s = false) ∧ t = s) ∨
      ((∃ g, s.rx.state = .frame g) ∧ rxEnabled s = true ∧ t = dropFrame s) := by
  unfold execRxdFull
  rw [whileReceiving_eq_next]
  constructor
  · rintro (⟨g, hg, he, h⟩ | h)
    · cases h; exact .inr ⟨⟨g, hg⟩, he, rfl⟩
    · exact .inl h
  · rintro (h | ⟨⟨g, hg⟩, he, rfl⟩)
    · exact .inr h
    · exact .inl ⟨g, hg, he, rfl⟩

/-! ### The MDIO controller -/

theorem mdioPeriod_eq_next {s t k : State} :
    mdioPeriod s k = .next t ↔
      (s.mdio.busy = false ∧ t = s) ∨
      (s.mdio.busy = true ∧ s.mdio.bit < 63 ∧ t = { s with mdio := { s.mdio with bit := s.mdio.bit + 1 } }) ∨
      (s.mdio.busy = true ∧ 63 ≤ s.mdio.bit ∧ t = k) := by
  unfold mdioPeriod
  cases hb : s.mdio.busy
  · simpa using eq_comm
  · by_cases h : s.mdio.bit < 63
    · simpa [h, Nat.not_le.2 h] using eq_comm
    · simpa [h, Nat.not_lt.1 h] using eq_comm

/-! ### Register operations -/

/-- What a register read can do: it sets `rdata`, and `RD ISR` also clears `ISR` (41_host_registers.md R251). -/
theorem exec_read_cases {i : Instr} {s t : State} (hi : Instr.isRegRead i = true) (h : exec i s = .next t) :
    ∃ v, t = { s with rdata := v } ∨ (i = .rdIsr ∧ t = { s with regs := { s.regs with isr := 0 }, rdata := v }) := by
  cases i <;> simp only [Instr.isRegRead, Bool.false_eq_true] at hi <;>
    simp only [exec, execRdNcr, execRdNcfg, execRdNsr, execRdTsr, execRdRbqp, execRdTbqp, execRdRsr, execRdIsr,
      execRdImr, execRdMan, execRdSa1b, execRdSa1t, execRdUsrio, returnRead, Host.Outcome.next.injEq] at h <;>
    subst h <;>
    first
      | exact ⟨_, .inl rfl⟩
      | exact ⟨_, .inr ⟨rfl, rfl⟩⟩

/-- A read command decodes to a register read (R250). -/
theorem decodeBus_read {cmd : BusCommand} {v : Word} {i : Instr} (hw : cmd.getLsbD 8 = false)
    (h : decodeBus cmd v = .ok i) : Instr.isRegRead i = true := by
  simp only [decodeBus, hw] at h
  split at h <;> simp_all <;> (subst h; rfl)

theorem busCommand_write (w : Bool) (r : Reg) : (busCommand w r).getLsbD 8 = w := by
  cases w <;> cases r <;> rfl

theorem commandAt_write (c : Config) (w : Bool) (a : Word) : (commandAt c w a).getLsbD 8 = w := by
  rw [commandAt, BitVec.getLsbD_append]
  simp

/-! ### The host's accesses -/

theorem hostRegRead_cases {cmd : BusCommand} {s t : State} {v : HostValue} (hw : cmd.getLsbD 8 = false)
    (h : hostRegRead cmd s = .next (some (t, v))) :
    ∃ i, Instr.isRegRead i = true ∧ decodeBus cmd 0 = .ok i ∧ s.pw = [] ∧ exec i s = .next t ∧ v.word = t.rdata := by
  unfold hostRegRead at h
  split at h
  · cases h
  · next i hi =>
    split at h
    · next hp =>
      obtain ⟨u, hu, h⟩ := andThen_eq_next.1 h
      cases h
      exact ⟨i, decodeBus_read hw hi, hi, by simpa using hp, hu, rfl⟩
    · cases h

theorem hostRegWrite_cases {cmd : BusCommand} {w : Word} {s t : State} {v : HostValue}
    (h : hostRegWrite cmd w s = .next (some (t, v))) :
    ∃ r i, decodeBus cmd w = .ok i ∧ regAt (cmd.extractLsb' 0 8) = some r ∧ t = { s with pw := s.pw ++ [(r, w)] } := by
  unfold hostRegWrite at h
  split at h
  · cases h
  · cases h
  · next hi hr => cases h; exact ⟨_, _, hi, hr, rfl⟩

/-- A host load that answers changes nothing and returns the loaded bytes. -/
theorem hostLoad_cases {a : Word} {n : Nat} {s t : State} {v : HostValue}
    (h : hostLoad a n s = .next (some (t, v))) : t = s ∧ v.bytes = (List.range n).map (loadByte s a) := by
  unfold hostLoad at h
  split at h
  · cases h
  · cases h; exact ⟨rfl, rfl⟩

theorem hostLoadBytes_cases {a : Word} {n : Nat} {s t : State} {v : HostValue}
    (h : hostLoadBytes a n s = .next (some (t, v))) : hostLoad a n s = .next (some (t, v)) := by
  unfold hostLoadBytes at h
  split at h
  · cases h
  · split at h
    · cases h
    · exact h

theorem hostStore_cases {a : Word} {bs : List Byte} {s t : State} {v : HostValue}
    (h : hostStore a bs s = .next (some (t, v))) : t = { s with mem := writeBytes s.mem a bs } := by
  unfold hostStore at h
  split at h
  · cases h
  · dsimp only at h
    split at h
    · cases h
    · split at h
      · cases h
      · cases h; rfl

theorem hostStoreBytes_cases {a : Word} {bs : List Byte} {s t : State} {v : HostValue}
    (h : hostStoreBytes a bs s = .next (some (t, v))) : hostStore a bs s = .next (some (t, v)) := by
  unfold hostStoreBytes at h
  split at h
  · cases h
  · split at h
    · cases h
    · exact h

/-- A collaborator that has performed a frame returns with the management port off (44_mdio.md R424). -/
theorem portOff_cases {s t : State} {v : HostValue} (h : perform .portOff s = .next (some (t, v))) :
    t = s ∧ mgmtEnabled s = false ∧ s.mdio.busy = false := by
  simp only [perform] at h
  split at h
  · cases h
  · next hb => cases h; simpa using hb

/-- Everything a host step's access can do to the machine: a register read, a posted write, a memory write, nothing, or the
registration of the handler. -/
theorem perform_cases {op : HostOp} {s t : State} {v : HostValue} (h : perform op s = .next (some (t, v))) :
    (∃ i, Instr.isRegRead i = true ∧ exec i s = .next t) ∨
    (∃ r w, t = { s with pw := s.pw ++ [(r, w)] }) ∨
    (∃ a bs, t = { s with mem := writeBytes s.mem a bs }) ∨
    t = s ∨ t = { s with handler := true } := by
  have read : ∀ {cmd : BusCommand}, cmd.getLsbD 8 = false → hostRegRead cmd s = .next (some (t, v)) →
      ∃ i, Instr.isRegRead i = true ∧ exec i s = .next t := fun hw h => by
    obtain ⟨i, h1, -, -, h2, -⟩ := hostRegRead_cases hw h; exact ⟨i, h1, h2⟩
  have write : ∀ {cmd : BusCommand} {w : Word}, hostRegWrite cmd w s = .next (some (t, v)) →
      ∃ r w, t = { s with pw := s.pw ++ [(r, w)] } := fun h => by
    obtain ⟨r, -, -, -, h1⟩ := hostRegWrite_cases h; exact ⟨r, _, h1⟩
  cases op with
  | regRead r => exact .inl (read (busCommand_write false r) h)
  | regWrite r w => exact .inr (.inl (write h))
  | loadBytes a n => exact .inr (.inr (.inr (.inl (hostLoad_cases (hostLoadBytes_cases h)).1)))
  | storeBytes a bs => exact .inr (.inr (.inl ⟨a, bs, hostStore_cases (hostStoreBytes_cases h)⟩))
  | bus x =>
    cases x with
    | load a n =>
      simp only [perform, hostBus] at h
      split at h
      · split at h
        · exact .inl (read (commandAt_write ..) h)
        · cases h
      · exact .inr (.inr (.inr (.inl (hostLoad_cases h).1)))
    | store a bs =>
      simp only [perform, hostBus] at h
      split at h
      · split at h
        · exact .inr (.inl (write h))
        · cases h
      · exact .inr (.inr (.inl ⟨a, bs, hostStore_cases h⟩))
  | software => cases h; exact .inr (.inr (.inr (.inl rfl)))
  | hold => cases h
  | portOff => exact .inr (.inr (.inr (.inl (portOff_cases h).1)))
  | register => cases h; exact .inr (.inr (.inr (.inr rfl)))
  | stop => cases h

/-- Everything a line of a procedure can do. -/
theorem lineStep_cases {id : ContextId} {p : Point} {rest : List Point} {s t : State}
    (h : lineStep id p rest s = .next t) :
    t = s ∨ ∃ u v, perform (opOf s.cfg s.sw s.draws p) s = .next (some (u, v)) ∧
      t = putContext u id rest (nextOf s.cfg s.sw s.draws (contextOf s id) v p) := by
  obtain ⟨a, ha, h⟩ := andThen_eq_next.1 h
  cases a with
  | none => cases h; exact .inl rfl
  | some x => cases h; exact .inr ⟨x.1, x.2, ha, rfl⟩

/-- Everything a host context can do. -/
theorem hostStep_cases {id : ContextId} {s t : State} (h : hostStep id s = .next t) :
    t = s ∨
    (∃ k, s.draws.call = some k ∧ (contextOf s id).stack = [] ∧ callAllowed id k s = true ∧
      t = putContext { s with started := true } id [] (startOf (contextOf s id) s.sw k)) ∨
    (∃ p rest, (contextOf s id).stack = p :: rest ∧ (entersCritical p && otherInCritical s id) = false ∧
      lineStep id p rest s = .next t) := by
  unfold hostStep at h
  split at h
  · cases h; exact .inl rfl
  · split at h
    · next hs =>
      unfold callStep at h
      split at h
      · cases h; exact .inl rfl
      · next k hk =>
        split at h
        · next ha => cases h; exact .inr (.inl ⟨k, hk, hs, ha, rfl⟩)
        · cases h; exact .inl rfl
    · next p rest hs =>
      split at h
      · cases h; exact .inl rfl
      · next hc => exact .inr (.inr ⟨p, rest, hs, by simpa using hc, h⟩)

/-- A step is the step of the agent the draws name, ended. -/
theorem step_eq_next {s t : State} :
    step s = .next t ↔ configOk s.cfg = true ∧ ∃ u, agentStep s.draws.agent s = .next u ∧ t = endStep s u := by
  unfold step
  split
  · next hc =>
    rw [andThen_eq_next]
    simp [hc, eq_comm]
  · next hc => simp [hc]

end Sys2Proof.Machine
end

