-- ==== Sys2Proof/Laws/PerInstr.lean ====
section
/-!
SUPPORT. Statements made for every command, one lemma per constructor.
-/

/-- 30_encoding.md R227: a command has a fixed length: a register read is its command alone (two bytes), a register write its
command and a data word, and every other command one word. -/
def Sys2Proof.Laws.EncodedLength.Statement (i : Sys2Proof.Instr) : Prop :=
  (Sys2Proof.encode i).length = match i.format with
    | .bus9 => if Sys2Proof.Machine.Instr.isRegRead i then 2 else 6
    | .txdW1 => 4
    | .rxdW0 => 4
    | .man32 => 4

open Sys2Proof

theorem Sys2Proof.Laws.EncodedLength.rdNcr :
    Sys2Proof.Laws.EncodedLength.Statement .rdNcr := rfl

theorem Sys2Proof.Laws.EncodedLength.wrNcr (v : Word) :
    Sys2Proof.Laws.EncodedLength.Statement (.wrNcr v) := rfl

theorem Sys2Proof.Laws.EncodedLength.rdNcfg :
    Sys2Proof.Laws.EncodedLength.Statement .rdNcfg := rfl

theorem Sys2Proof.Laws.EncodedLength.wrNcfg (v : Word) :
    Sys2Proof.Laws.EncodedLength.Statement (.wrNcfg v) := rfl

theorem Sys2Proof.Laws.EncodedLength.rdNsr :
    Sys2Proof.Laws.EncodedLength.Statement .rdNsr := rfl

theorem Sys2Proof.Laws.EncodedLength.rdTsr :
    Sys2Proof.Laws.EncodedLength.Statement .rdTsr := rfl

theorem Sys2Proof.Laws.EncodedLength.wrTsr (v : Word) :
    Sys2Proof.Laws.EncodedLength.Statement (.wrTsr v) := rfl

theorem Sys2Proof.Laws.EncodedLength.rdRbqp :
    Sys2Proof.Laws.EncodedLength.Statement .rdRbqp := rfl

theorem Sys2Proof.Laws.EncodedLength.wrRbqp (v : Word) :
    Sys2Proof.Laws.EncodedLength.Statement (.wrRbqp v) := rfl

theorem Sys2Proof.Laws.EncodedLength.rdTbqp :
    Sys2Proof.Laws.EncodedLength.Statement .rdTbqp := rfl

theorem Sys2Proof.Laws.EncodedLength.wrTbqp (v : Word) :
    Sys2Proof.Laws.EncodedLength.Statement (.wrTbqp v) := rfl

theorem Sys2Proof.Laws.EncodedLength.rdRsr :
    Sys2Proof.Laws.EncodedLength.Statement .rdRsr := rfl

theorem Sys2Proof.Laws.EncodedLength.wrRsr (v : Word) :
    Sys2Proof.Laws.EncodedLength.Statement (.wrRsr v) := rfl

theorem Sys2Proof.Laws.EncodedLength.rdIsr :
    Sys2Proof.Laws.EncodedLength.Statement .rdIsr := rfl

theorem Sys2Proof.Laws.EncodedLength.wrIer (v : Word) :
    Sys2Proof.Laws.EncodedLength.Statement (.wrIer v) := rfl

theorem Sys2Proof.Laws.EncodedLength.wrIdr (v : Word) :
    Sys2Proof.Laws.EncodedLength.Statement (.wrIdr v) := rfl

theorem Sys2Proof.Laws.EncodedLength.rdImr :
    Sys2Proof.Laws.EncodedLength.Statement .rdImr := rfl

theorem Sys2Proof.Laws.EncodedLength.rdMan :
    Sys2Proof.Laws.EncodedLength.Statement .rdMan := rfl

theorem Sys2Proof.Laws.EncodedLength.wrMan (v : Word) :
    Sys2Proof.Laws.EncodedLength.Statement (.wrMan v) := rfl

theorem Sys2Proof.Laws.EncodedLength.rdSa1b :
    Sys2Proof.Laws.EncodedLength.Statement .rdSa1b := rfl

theorem Sys2Proof.Laws.EncodedLength.wrSa1b (v : Word) :
    Sys2Proof.Laws.EncodedLength.Statement (.wrSa1b v) := rfl

theorem Sys2Proof.Laws.EncodedLength.rdSa1t :
    Sys2Proof.Laws.EncodedLength.Statement .rdSa1t := rfl

theorem Sys2Proof.Laws.EncodedLength.wrSa1t (v : Word) :
    Sys2Proof.Laws.EncodedLength.Statement (.wrSa1t v) := rfl

theorem Sys2Proof.Laws.EncodedLength.rdUsrio :
    Sys2Proof.Laws.EncodedLength.Statement .rdUsrio := rfl

theorem Sys2Proof.Laws.EncodedLength.wrUsrio (v : Word) :
    Sys2Proof.Laws.EncodedLength.Statement (.wrUsrio v) := rfl

theorem Sys2Proof.Laws.EncodedLength.txdStop (last : Bool) (f : TxFields) :
    Sys2Proof.Laws.EncodedLength.Statement (.txdStop last f) := rfl

theorem Sys2Proof.Laws.EncodedLength.txdBuf (f : TxFields) :
    Sys2Proof.Laws.EncodedLength.Statement (.txdBuf f) := rfl

theorem Sys2Proof.Laws.EncodedLength.txdLast (f : TxFields) :
    Sys2Proof.Laws.EncodedLength.Statement (.txdLast f) := rfl

theorem Sys2Proof.Laws.EncodedLength.rxdFree (f : RxFields) :
    Sys2Proof.Laws.EncodedLength.Statement (.rxdFree f) := rfl

theorem Sys2Proof.Laws.EncodedLength.rxdFull (f : RxFields) :
    Sys2Proof.Laws.EncodedLength.Statement (.rxdFull f) := rfl

theorem Sys2Proof.Laws.EncodedLength.mdioRead (f : ManFields) :
    Sys2Proof.Laws.EncodedLength.Statement (.mdioRead f) := rfl

theorem Sys2Proof.Laws.EncodedLength.mdioWrite (f : ManFields) :
    Sys2Proof.Laws.EncodedLength.Statement (.mdioWrite f) := rfl
end

