-- ==== Sys2Proof/Laws/Step.lean ====
section
/-!
SUPPORT. Everything one step of the machine can do, once, so that a proof over all steps cites these and unfolds no agent.
-/

namespace Sys2Proof.Machine

/-- What one access or call of the host can leave: nothing changed, a register read's effect, a posted write, a memory write,
the registration of the handler, the first action taken. -/
def HostEffect (s u : State) : Prop :=
  (∃ i, Instr.isRegRead i = true ∧ exec i s = .next u) ∨ (∃ r w, u = { s with pw := s.pw ++ [(r, w)] })
    ∨ (∃ a bs, u = { s with mem := writeBytes s.mem a bs }) ∨ u = s ∨ u = { s with handler := true }
    ∨ u = { s with started := true }

/-- A host step holds, or makes at most one access and moves its context on. -/
theorem hostStep_effect {id : ContextId} {s t : State} (h : hostStep id s = .next t) :
    t = s ∨ ∃ u stack n, HostEffect s u ∧ t = putContext u id stack n := by
  rcases hostStep_cases h with rfl | ⟨k, -, -, -, rfl⟩ | ⟨p, rest, -, -, hl⟩
  · exact .inl rfl
  · exact .inr ⟨_, [], _, .inr (.inr (.inr (.inr (.inr rfl)))), rfl⟩
  · rcases lineStep_cases hl with rfl | ⟨u, v, hp, rfl⟩
    · exact .inl rfl
    · refine .inr ⟨u, rest, _, ?_, rfl⟩
      rcases perform_cases hp with h | h | h | h | h
      · exact .inl h
      · exact .inr (.inl h)
      · exact .inr (.inr (.inl h))
      · exact .inr (.inr (.inr (.inl h)))
      · exact .inr (.inr (.inr (.inr (.inl h))))

/-- Each agent's step: it holds, it runs one engine command, it performs the oldest posted write, it is the medium's or the
interrupt controller's step, it is a host context's, or it is a reset. -/
theorem agentStep_cases {g : Agent} {s t : State} (h : agentStep g s = .next t) :
    t = s ∨ (∃ i, i.format ≠ .bus9 ∧ exec i s = .next t)
      ∨ (∃ r v rest i, s.pw = (r, v) :: rest ∧ decodeBus (busCommand true r) v = .ok i
          ∧ exec i { s with pw := rest } = .next t)
      ∨ t = mediumStep s ∨ (interruptEnabled s = true ∧ t = enterInterrupt s)
      ∨ (∃ id u stack n, HostEffect s u ∧ t = putContext u id stack n) ∨ t = platformReset s := by
  have txd : ∀ w, (decodeTxd w).format ≠ .bus9 := fun w => by
    unfold decodeTxd; split
    · simp [Instr.format]
    · split <;> simp [Instr.format]
  have rxd : ∀ w, (decodeRxd w).format ≠ .bus9 := fun w => by
    simp only [decodeRxd]; split <;> simp [Instr.format]
  have man : ∀ w i, decodeMan w = .ok i → i.format ≠ .bus9 := fun w i hi => by
    unfold decodeMan at hi
    split at hi
    · split at hi
      · cases hi; simp [Instr.format]
      · split at hi
        · cases hi; simp [Instr.format]
        · cases hi
    · cases hi
  have host : ∀ {id}, hostStep id s = .next t → t = s ∨ ∃ id u stack n, HostEffect s u ∧ t = putContext u id stack n :=
    fun {id} h => (hostStep_effect h).imp_right fun ⟨u, stack, n, he, ht⟩ => ⟨id, u, stack, n, he, ht⟩
  cases g with
  | txe =>
    simp only [agentStep, txeStep] at h
    split at h
    · obtain ⟨w, -, h⟩ := andThen_eq_next.1 h
      exact .inr (.inl ⟨_, txd w, h⟩)
    · cases h; exact .inl rfl
  | rxe =>
    simp only [agentStep, rxeStep] at h
    split at h
    · obtain ⟨w, -, h⟩ := andThen_eq_next.1 h
      exact .inr (.inl ⟨_, rxd w, h⟩)
    · cases h; exact .inl rfl
  | mdio =>
    simp only [agentStep, mdioStep] at h
    split at h
    · unfold runDecoded at h
      split at h
      · next i hi => exact .inr (.inl ⟨i, man _ _ hi, h⟩)
      · cases h
    · cases h; exact .inl rfl
  | bus =>
    simp only [agentStep, busStep] at h
    split at h
    · cases h; exact .inl rfl
    · next r v rest hp =>
      unfold runDecoded at h
      split at h
      · next i hi => exact .inr (.inr (.inl ⟨r, v, rest, i, hp, hi, h⟩))
      · cases h
  | hostTx => exact (host h).imp_right fun h => .inr (.inr (.inr (.inr (.inl h))))
  | hostRx => exact (host h).imp_right fun h => .inr (.inr (.inr (.inr (.inl h))))
  | hostIsr => exact (host h).imp_right fun h => .inr (.inr (.inr (.inr (.inl h))))
  | phy => cases h; exact .inl rfl
  | medium => cases h; exact .inr (.inr (.inr (.inl rfl)))
  | intc =>
    cases h
    unfold intcStep
    split
    · next he => exact .inr (.inr (.inr (.inr (.inl ⟨he, rfl⟩))))
    · exact .inl rfl
  | reset => cases h; exact .inr (.inr (.inr (.inr (.inr (.inr rfl)))))

/-- What moving a context on changes: that context and the software state. -/
theorem putContext_rest (s : State) (id : ContextId) (stack : List Point) (n : Next) :
    let t := putContext s id stack n
    t.cfg = s.cfg ∧ t.regs = s.regs ∧ t.tx = s.tx ∧ t.rx = s.rx ∧ t.mdio = s.mdio ∧ t.pw = s.pw ∧ t.mem = s.mem
      ∧ t.handler = s.handler ∧ t.started = s.started ∧ t.rdata = s.rdata ∧ t.events = s.events ∧ t.draws = s.draws
      ∧ t.drawCount = s.drawCount := by
  cases id <;> simp only [putContext]
  case tx => simp
  case rx => simp
  case isr => split <;> simp [returnFromInterrupt]

/-- The line a context stands at when it makes a bus access of its own: it makes the access and returns. -/
theorem lineStep_access (id : ContextId) (x : BusAccess) (rest : List Point) (s : State) :
    lineStep id (.access x) rest s = andThen (hostBus x s) fun answer =>
      match answer with
      | none => .next s
      | some (t, v) => .next (putContext t id rest ⟨[], s.sw, v.word, v.bytes⟩) := rfl

end Sys2Proof.Machine
end

