-- ==== Sys2Proof/Tests/Slice0.lean ====
section
/-!
SUPPORT. The model's own tests: ill-formed commands are refused, every constructor's decoding from words written out from
30_encoding.md, single steps from the vectors of 95_test_vectors.md (named in each comment), and a witness for the hypotheses
of every statement.
-/

namespace Sys2Proof.Tests

open Sys2Proof.Machine

/-! ### Helpers -/

/-- The step answers a next state with the property. -/
def after (o : Result State) (p : State → Bool) : Bool :=
  match o with
  | .next t => p t
  | .fault _ => false
  | .refused _ => false

/-- The step records this fault. -/
def faults (o : Result State) (r : Fault) : Bool :=
  match o with
  | .fault q => q == r
  | .next _ => false
  | .refused _ => false

/-- The step records this refusal. -/
def refuses (o : Result State) (r : Refusal) : Bool :=
  match o with
  | .refused q => q == r
  | .next _ => false
  | .fault _ => false

/-- The reset state with `NCR`. -/
def withNcr (v : Word) : State := { State.reset with regs := { Regs.reset with ncr := v } }

/-- A management frame in progress, `NCR = 0x1C` and `NCFG = 0x800`, with `n` periods behind it. -/
def busy (w : Word) (n : Nat) : State :=
  { withNcr 0x1C with mdio := { busy := true, word := w, bit := n } }

/-- The start of V-TX, with `NCFG.FD` and the outcome the medium draws, the descriptor at `p` holding `w0` and `w1`. -/
def txState (fd : Bool) (o : TxOutcome) (p w0 w1 : Word) : State :=
  { withNcr 0x0C with
    regs := { Regs.reset with ncr := 0x0C, ncfg := if fd then 0x803 else 0x801 }
    tx := { state := .active, base := 0x20000000, ptr := p, frame := none }
    mem := writeWord (writeWord [] p w0) (p + 4) w1
    draws := { Draws.initial with agent := .txe, outcome := o } }

/-- The engine in the middle of a frame that began at desc 0, which holds `w1`. -/
def midFrame (s : State) (w1 : Word) : State :=
  { s with
    tx := { s.tx with frame := some { first := 0x20000000, bytes := [1, 2] } }
    mem := writeWord s.mem 0x20000004 w1 }

/-- The error pointer parameter set to `HOLD`. -/
def holding (s : State) : State := { s with cfg := { s.cfg with txErrPtr := .hold } }

/-- The start of V-RX, with a frame of `n` bytes of which `pos` are stored, the descriptor at `p` holding `w0`. -/
def rxState (n pos : Nat) (p w0 : Word) : State :=
  { withNcr 0x0C with
    rx := { state := .frame { bytes := List.replicate n 0xAB, pos := pos, first := pos == 0 }, base := 0x20000100, ptr := p }
    mem := writeWord [] p w0
    draws := { Draws.initial with agent := .rxe } }

/-- The fields of an owned TX descriptor of `n` bytes. -/
def txf (n : BitVec 11) (wrap : Bool) : TxFields :=
  { len := n, resLow := 0, resHigh := 0, bex := false, und := false, rle := false, wrap := wrap }

/-- The fields of a word, for a test on the word a vector gives. -/
def txw (v : Word) : TxFields := txFields v

/-- Buffer i of the RX pool, as an RX descriptor's fields. -/
def rxf (a : Word) (wrap : Bool) : RxFields := { addr := a.extractLsb' 2 30, wrap := wrap }

/-- A host context that stands at one line. -/
def standing (p : Point) : Context := { stack := [p], ret := 0, data := [] }

/-- `HOST_RX` stands at one line, and it moves. -/
def hostAt (s : State) (p : Point) : State :=
  { s with hostRx := standing p, draws := { s.draws with agent := .hostRx } }

/-! ### Well-formedness: one ill-formed command for each check -/

theorem test_illFormed_wrNcr_bit0 : Instr.wf (.wrNcr 0x1) = false := by decide

theorem test_illFormed_wrNcr_bit5 : Instr.wf (.wrNcr 0x20) = false := by decide

theorem test_illFormed_wrNcr_bit10 : Instr.wf (.wrNcr 0x400) = false := by decide

theorem test_illFormed_wrNcfg : Instr.wf (.wrNcfg 0x4) = false := by decide

theorem test_illFormed_wrTsr : Instr.wf (.wrTsr 0x80) = false := by decide

theorem test_illFormed_wrRsr : Instr.wf (.wrRsr 0x8) = false := by decide

theorem test_illFormed_wrIer : Instr.wf (.wrIer 0x100) = false := by decide

theorem test_illFormed_wrIdr : Instr.wf (.wrIdr 0x1000) = false := by decide

theorem test_illFormed_wrSa1t : Instr.wf (.wrSa1t 0x10000) = false := by decide

theorem test_illFormed_wrUsrio : Instr.wf (.wrUsrio 0x4) = false := by decide

theorem test_illFormed_wrRbqp : Instr.wf (.wrRbqp 0x20000104) = false := by decide

theorem test_illFormed_wrTbqp : Instr.wf (.wrTbqp 0x20000004) = false := by decide

theorem test_illFormed_txdBuf_len : Instr.wf (.txdBuf (txw 0x00000000)) = false := by decide

theorem test_illFormed_txdBuf_low : Instr.wf (.txdBuf (txw 0x00004010)) = false := by decide

theorem test_illFormed_txdBuf_high : Instr.wf (.txdBuf (txw 0x00010010)) = false := by decide

theorem test_illFormed_txdLast_len : Instr.wf (.txdLast (txw 0x00008000)) = false := by decide

theorem test_illFormed_txdLast_low : Instr.wf (.txdLast (txw 0x0000C010)) = false := by decide

theorem test_illFormed_txdLast_high : Instr.wf (.txdLast (txw 0x00018010)) = false := by decide

theorem test_wellFormed_boundaries : Instr.wf (.wrNcr 0x21C) && Instr.wf (.wrTsr 0x7F) && Instr.wf (.wrIer 0xCFF)
    && Instr.wf (.wrTbqp 0xFFFFFFF8) && Instr.wf (.txdLast (txw 0x780087FF)) = true := by decide

/-! ### Decoding: words written out from 30_encoding.md -/

theorem test_decode_rdNcr : decode .bus9 [0x00, 0x00] = .ok (.rdNcr, []) := by decide

theorem test_decode_wrNcr : decode .bus9 [0x00, 0x01, 0x04, 0x03, 0x02, 0x81] = .ok (.wrNcr 0x81020304, []) := by decide

theorem test_decode_rdNcfg : decode .bus9 [0x04, 0x00] = .ok (.rdNcfg, []) := by decide

theorem test_decode_wrNcfg : decode .bus9 [0x04, 0x01, 0x04, 0x03, 0x02, 0x81] = .ok (.wrNcfg 0x81020304, []) := by decide

theorem test_decode_rdNsr : decode .bus9 [0x08, 0x00] = .ok (.rdNsr, []) := by decide

theorem test_decode_rdTsr : decode .bus9 [0x14, 0x00] = .ok (.rdTsr, []) := by decide

theorem test_decode_wrTsr : decode .bus9 [0x14, 0x01, 0x04, 0x03, 0x02, 0x81] = .ok (.wrTsr 0x81020304, []) := by decide

theorem test_decode_rdRbqp : decode .bus9 [0x18, 0x00] = .ok (.rdRbqp, []) := by decide

theorem test_decode_wrRbqp : decode .bus9 [0x18, 0x01, 0x04, 0x03, 0x02, 0x81] = .ok (.wrRbqp 0x81020304, []) := by decide

theorem test_decode_rdTbqp : decode .bus9 [0x1C, 0x00] = .ok (.rdTbqp, []) := by decide

theorem test_decode_wrTbqp : decode .bus9 [0x1C, 0x01, 0x04, 0x03, 0x02, 0x81] = .ok (.wrTbqp 0x81020304, []) := by decide

theorem test_decode_rdRsr : decode .bus9 [0x20, 0x00] = .ok (.rdRsr, []) := by decide

theorem test_decode_wrRsr : decode .bus9 [0x20, 0x01, 0x04, 0x03, 0x02, 0x81] = .ok (.wrRsr 0x81020304, []) := by decide

theorem test_decode_rdIsr : decode .bus9 [0x24, 0x00] = .ok (.rdIsr, []) := by decide

theorem test_decode_wrIer : decode .bus9 [0x28, 0x01, 0x04, 0x03, 0x02, 0x81] = .ok (.wrIer 0x81020304, []) := by decide

theorem test_decode_wrIdr : decode .bus9 [0x2C, 0x01, 0x04, 0x03, 0x02, 0x81] = .ok (.wrIdr 0x81020304, []) := by decide

theorem test_decode_rdImr : decode .bus9 [0x30, 0x00] = .ok (.rdImr, []) := by decide

theorem test_decode_rdMan : decode .bus9 [0x34, 0x00] = .ok (.rdMan, []) := by decide

theorem test_decode_wrMan : decode .bus9 [0x34, 0x01, 0x04, 0x03, 0x02, 0x81] = .ok (.wrMan 0x81020304, []) := by decide

theorem test_decode_rdSa1b : decode .bus9 [0x98, 0x00] = .ok (.rdSa1b, []) := by decide

theorem test_decode_wrSa1b : decode .bus9 [0x98, 0x01, 0x04, 0x03, 0x02, 0x81] = .ok (.wrSa1b 0x81020304, []) := by decide

theorem test_decode_rdSa1t : decode .bus9 [0x9C, 0x00] = .ok (.rdSa1t, []) := by decide

theorem test_decode_wrSa1t : decode .bus9 [0x9C, 0x01, 0x04, 0x03, 0x02, 0x81] = .ok (.wrSa1t 0x81020304, []) := by decide

theorem test_decode_rdUsrio : decode .bus9 [0xC0, 0x00] = .ok (.rdUsrio, []) := by decide

theorem test_decode_wrUsrio :
    decode .bus9 [0xC0, 0x01, 0x04, 0x03, 0x02, 0x81] = .ok (.wrUsrio 0x81020304, []) := by decide

-- R217: `USED`, then `WRAP`, `RLE`, `UND`, `BEX`, then the reserved bits 26:16, `LAST`, the reserved bits 14:11, `LEN`.
theorem test_decode_txdStop : decode .txdW1 [0x24, 0x80, 0x00, 0xC0]
    = .ok (.txdStop true { len := 36, resLow := 0, resHigh := 0, bex := false, und := false, rle := false, wrap := true }, [])
  := by decide

theorem test_decode_txdBuf : decode .txdW1 [0x01, 0x08, 0x00, 0x28]
    = .ok (.txdBuf { len := 1, resLow := 1, resHigh := 0, bex := true, und := false, rle := true, wrap := false }, [])
  := by decide

theorem test_decode_txdLast : decode .txdW1 [0xFF, 0x87, 0x01, 0x50]
    = .ok (.txdLast { len := 2047, resLow := 0, resHigh := 1, bex := false, und := true, rle := false, wrap := true }, [])
  := by decide

-- R212: `OWN`, `WRAP`, `ADDR`; 0x20002182 is slot 3 of the common configuration.
theorem test_decode_rxdFree : decode .rxdW0 [0x82, 0x21, 0x00, 0x20]
    = .ok (.rxdFree { addr := 0x08000860, wrap := true }, []) := by decide

theorem test_decode_rxdFull : decode .rxdW0 [0x81, 0x20, 0x00, 0x20]
    = .ok (.rxdFull { addr := 0x08000820, wrap := false }, []) := by decide

-- M-5: the extremes of the fields.
theorem test_decode_mdioRead : decode .man32 [0x00, 0x00, 0xFE, 0x6F]
    = .ok (.mdioRead { phya := 31, rega := 31, data := 0 }, []) := by decide

theorem test_decode_mdioWrite : decode .man32 [0xFF, 0xFF, 0xFE, 0x5F]
    = .ok (.mdioWrite { phya := 31, rega := 31, data := 0xFFFF }, []) := by decide

-- R279: R-31 to R-34.
theorem test_decode_refused : decodeBus 0x108 0 = .error .readOnlyRegister ∧ decodeBus 0x124 0 = .error .readOnlyRegister
    ∧ decodeBus 0x130 0 = .error .readOnlyRegister ∧ decodeBus 0x028 0 = .error .writeOnlyRegister
    ∧ decodeBus 0x02C 0 = .error .writeOnlyRegister ∧ decodeBus 0x00C 0 = .error .unmappedRegister
    ∧ decodeBus 0x010 0 = .error .unmappedRegister ∧ decodeBus 0x138 0 = .error .unmappedRegister
    ∧ decodeBus 0x1FC 0 = .error .unmappedRegister := by decide

-- M-8, M-9, R-25.
theorem test_decode_manReserved : decodeMan 0x70020000 = .error .manReserved ∧ decodeMan 0x60880000 = .error .manReserved
    ∧ decodeMan 0x208A0000 = .error .manReserved := by decide

-- A table word in each format, with the bits above those the row fixes zero.
theorem test_decodeTableWord : decodeTableWord 9 0x024 = some .rdIsr ∧ decodeTableWord 9 0x134 = some (.wrMan 0)
    ∧ decodeTableWord 32 0x00008000 = some (.txdLast (txf 0 false))
      ∧ decodeTableWord 8 0x1 = some (.rxdFull (rxf 0 false))
    ∧ decodeTableWord 32 0x60020000 = some (.mdioRead { phya := 0, rega := 0, data := 0 }) := by decide

-- The word step fetches first after reset is the one placed.
theorem test_withFetchWord : after (step (State.reset.withFetchWord 9 0x104)) (fun t => t.regs.ncfg == 0 && t.pw == [])
    && after (step (State.reset.withFetchWord 32 0x80000000)) (fun t => t.tx.state == .idle && t.regs.tsr == 1)
    && after (step (State.reset.withFetchWord 8 0x1)) (fun t => t.rx.state == .idle
      && t.regs.rsr == 1) = true := by decide

/-! ### Register operations (V-REG) -/

-- R-7.
theorem test_rdNcr : after (exec .rdNcr (withNcr 0x0C)) (fun t => t.rdata == 0x0C) = true := by decide

-- R-8.
theorem test_wrNcr_start :
    after (exec (.wrNcr 0x20C) (withNcr 0x0C)) (fun t => t.regs.ncr == 0x0C && t.tx.state == .active) = true := by decide

-- T-18.
theorem test_wrNcr_offMidFrame : after (exec (.wrNcr 0x04) (midFrame (txState true .ok 0x20000008 0 0) 0x40))
    (fun t => t.tx == { state := .idle, base := 0x20000000, ptr := 0x20000000, frame := none }
      && t.events == []) = true := by decide

-- R-1.
theorem test_rdNcfg : after (exec .rdNcfg State.reset) (fun t => t.rdata == 0x800) = true := by decide

-- R-11, R-12.
theorem test_wrNcfg : after (exec (.wrNcfg 0x803) State.reset) (fun t => t.regs.ncfg == 0x803)
    && refuses (exec (.wrNcfg 0x04) State.reset) .reservedBit = true := by decide

-- R-37, R-38.
theorem test_wrNcfg_busy : faults (exec (.wrNcfg 0xC00) (busy 0x608A0000 0)) .mdioClockChangedWhileBusy
    && after (exec (.wrNcfg 0x803) (busy 0x608A0000 0)) (fun t => t.regs.ncfg == 0x803) = true := by decide

-- R-2.
theorem test_rdNsr : after (exec .rdNsr State.reset) (fun t => t.rdata == 0x4)
    && after (exec .rdNsr { State.reset with draws := { Draws.initial with word := 0xFFFFFFFF } }) (fun t => t.rdata == 0x6) = true := by decide

-- R-14, the read.
theorem test_rdTsr : after (exec .rdTsr { txState true .ok 0x20000000 0 0 with regs := { Regs.reset with tsr := 0x21 } })
    (fun t => t.rdata == 0x29) = true := by decide

-- R-13, R-14.
theorem test_wrTsr :
    after (exec (.wrTsr 0x20) { State.reset with regs := { Regs.reset with tsr := 0x21 } }) (fun t => t.regs.tsr == 0x01)
    && after (exec (.wrTsr 0x08) { State.reset with regs := { Regs.reset with tsr := 0x21 } }) (fun t => t.regs.tsr == 0x21) = true := by decide

-- R-19, the read.
theorem test_rdRbqp :
    after (exec .rdRbqp (rxState 60 0 0x20000108 0)) (fun t => t.rdata == 0x20000108) = true := by decide

-- R-19, R-20, R-21.
theorem test_wrRbqp :
    after (exec (.wrRbqp 0x20000100) State.reset) (fun t => t.rx.base == 0x20000100 && t.rx.ptr == 0x20000100)
    && faults (exec (.wrRbqp 0x20000104) State.reset) .misalignedQueue
    && faults (exec (.wrRbqp 0x20000100) (withNcr 0x04)) .rbqpWriteWhileReceiving = true := by decide

-- R-23, the read.
theorem test_rdTbqp :
    after (exec .rdTbqp (txState true .ok 0x20000008 0 0)) (fun t => t.rdata == 0x20000008) = true := by decide

-- R-22, R-23.
theorem test_wrTbqp : faults (exec (.wrTbqp 0x20000000) (txState true .ok 0x20000000 0 0)) .tbqpWriteWhileTransmitting
    && after (exec (.wrTbqp 0x20000008) (withNcr 0x08)) (fun t => t.tx.ptr == 0x20000008
      && t.tx.base == 0x20000008) = true := by decide

-- R-16.
theorem test_rsr :
    after (exec (.wrRsr 0x05) { State.reset with regs := { Regs.reset with rsr := 0x07 } }) (fun t => t.regs.rsr == 0x02)
    && after (exec .rdRsr { State.reset with regs := { Regs.reset with rsr := 0x02 } }) (fun t => t.rdata == 0x02) = true := by decide

-- R-18.
theorem test_rdIsr : after (exec .rdIsr { State.reset with regs := { Regs.reset with isr := 0x88 } })
    (fun t => t.rdata == 0x88 && after (exec .rdIsr t) (fun u => u.rdata == 0)) = true := by decide

-- R-3, R-4.
theorem test_wrIer : after (exec (.wrIer 0x82) State.reset) (fun t => after (exec .rdImr t) (fun u => u.rdata == 0xC7D))
    && after (exec .rdImr State.reset) (fun t => t.rdata == 0xCFF) = true := by decide

-- R-5, R-6.
theorem test_wrIdr :
    after (exec (.wrIdr 0x80) { State.reset with regs := { Regs.reset with imask := 0xC7D } }) (fun t => t.regs.imask == 0xCFD)
    && refuses (exec (.wrIdr 0x100) State.reset) .reservedBit = true := by decide

-- R-24.
theorem test_wrMan_stored :
    after (exec (.wrMan 0x608A0000) State.reset) (fun t => t.regs.man == 0x608A0000 && !t.mdio.busy
    && after (exec .rdMan t) (fun u => u.rdata == 0x608A0000)) = true := by decide

-- R-25, R-26.
theorem test_wrMan_stops : refuses (exec (.wrMan 0x208A0000) (withNcr 0x10)) .manReserved
    && faults (exec (.wrMan 0x608A0000) (busy 0x608A0000 0)) .mdioWriteWhileBusy = true := by decide

-- M-6, the start.
theorem test_wrMan_starts : after (exec (.wrMan 0x608A0000) (withNcr 0x10))
    (fun t => t.mdio == { busy := true, word := 0x608A0000, bit := 0 } && t.regs.man == 0x608A0000) = true := by decide

-- R-27.
theorem test_sa1b :
    after (exec (.wrSa1b 0x44332211) State.reset) (fun t => after (exec .rdSa1b t) (fun u => u.rdata == 0x44332211)) = true := by decide

-- R-27, R-28.
theorem test_sa1t :
    after (exec (.wrSa1t 0x6655) State.reset) (fun t => after (exec .rdSa1t t) (fun u => u.rdata == 0x6655))
    && refuses (exec (.wrSa1t 0x10000) State.reset) .reservedBit = true := by decide

-- R-29, R-30.
theorem test_usrio : after (exec (.wrUsrio 0x3) State.reset) (fun t => after (exec .rdUsrio t) (fun u => u.rdata == 0x3))
    && refuses (exec (.wrUsrio 0x4) State.reset) .reservedBit = true := by decide

-- R-39.
theorem test_wrNcr_mpe : faults (exec (.wrNcr 0x0C) (busy 0x608A0000 5)) .mdioDisabledWhileBusy = true := by decide

-- R-35.
theorem test_posted : after (agentStep .hostRx (hostAt State.reset (.access (.store 0x40000000 [0x0C, 0, 0, 0]))))
    (fun t => t.pw == [(.ncr, 0x0C)] && t.regs.ncr == 0) = true := by decide

-- R-31.
theorem test_refusedAtIssue :
    refuses (agentStep .hostRx (hostAt State.reset (.access (.store 0x40000024 [0, 0, 0, 0])))) .readOnlyRegister = true := by decide

/-! ### TX descriptor forms (V-TX) -/

-- T-1.
theorem test_txdStop_boundary : after (step (txState true .ok 0x20000000 0 0x80000000))
    (fun t => t.tx.state == .idle && t.tx.ptr == 0x20000000 && t.regs.tsr == 0x01
      && t.regs.isr == 0x08) = true := by decide

-- T-9.
theorem test_txdStop_midFrame : after (step (midFrame (txState true .ok 0x20000008 0 0xC0000000) 0x40))
    (fun t => readWord t.mem 0x20000004 == 0x88000040 && t.regs.tsr == 0x10 && t.regs.isr == 0x40
      && t.tx == { state := .idle, base := 0x20000000, ptr := 0x20000000, frame := none }
      && t.events == [.txFrame [1, 2] .bex]) = true := by decide

-- T-2.
theorem test_txdBuf : after (step (txState true .ok 0x20000000 0x20001000 0x40))
    (fun t => t.tx.ptr == 0x20000008 && t.tx.state == .active
      && (t.tx.frame.map fun f => (f.first, f.bytes.length)) == some (0x20000000, 64)
      && readWord t.mem 0x20000004 == 0x40 && t.events == []) = true := by decide

-- T-16.
theorem test_txdBuf_top :
    faults (exec (.txdBuf (txw 0x10)) (txState true .ok 0xFFFFFFF8 0x20001000 0x10)) .queueWrapOverflow = true := by decide

-- T-4.
theorem test_txdLast_wrap : after (step (txState true .ok 0x20000008 0x20001040 0x40008010))
    (fun t => readWord t.mem 0x2000000C == 0xC0008010 && t.regs.tsr == 0x20 && t.regs.isr == 0x80
      && t.tx == { state := .active, base := 0x20000000, ptr := 0x20000000, frame := none }) = true := by decide

-- T-7.
theorem test_txdLast_rle : after (step (txState false .rle 0x20000000 0x20001000 0x8010))
    (fun t => readWord t.mem 0x20000004 == 0xA0008010 && t.regs.tsr == 0x04 && t.regs.isr == 0x20
      && t.tx.state == .idle && t.tx.ptr == 0x20000000) = true := by decide

-- T-6 with `HOLD`.
theorem test_txdLast_und_hold : after (step (holding (txState true .und 0x20000000 0x20001000 0x8010)))
    (fun t => readWord t.mem 0x20000004 == 0x90008010 && t.regs.tsr == 0x40 && t.regs.isr == 0x10
      && t.tx.state == .idle && t.tx.ptr == 0x20000008) = true := by decide

-- T-11, T-12, T-13, T-15.
theorem test_tx_checks : refuses (step (txState true .ok 0x20000000 0x20001000 0x8000)) .txDescriptorReserved
    && refuses (step (txState true .ok 0x20000000 0x20001000 0x18010)) .txDescriptorReserved
    && refuses (step (txState true .ok 0x20000000 0x20001000 0xC010)) .txDescriptorReserved
    && faults (step (txState true .ok 0x20000000 0x20001002 0x8010)) .misalignedDma = true := by decide

/-! ### RX descriptor forms (V-RX) -/

-- X-5.
theorem test_rxdFree_last : after (step (rxState 10 0 0x20000118 0x20002182))
    (fun t => readWord t.mem 0x20000118 == 0x20002183 && readWord t.mem 0x2000011C == 0xC00A && t.rx.ptr == 0x20000100
      && t.rx.state == .idle && t.regs.rsr == 0x02 && t.regs.isr == 0x02
        && readByte t.mem 0x20002189 == 0xAB) = true := by decide +kernel

-- X-4, the second step.
theorem test_rxdFree_middle : after (step (rxState 300 128 0x20000108 0x20002080))
    (fun t => readWord t.mem 0x20000108 == 0x20002081 && readWord t.mem 0x2000010C == 0 && t.rx.ptr == 0x20000110
      && t.regs.rsr == 0 && t.rx.state != .idle) = true := by decide +kernel

-- X-6.
theorem test_rxdFull : after (step (rxState 60 0 0x20000100 0x20002001))
    (fun t => t.rx.state == .idle && t.rx.ptr == 0x20000100 && t.regs.rsr == 0x01 && t.regs.isr == 0x04
      && t.mem == (rxState 60 0 0x20000100 0x20002001).mem) = true := by decide

-- X-8.
theorem test_overrun :
    after (agentStep .medium { rxState 300 128 0x20000108 0x20002080 with draws := { Draws.initial with frame := [7] } })
    (fun t => t.regs.rsr == 0x04 && t.regs.isr == 0x400 && t.events == [.rxOffered [7]]
      && t.rx.ptr == 0x20000108) = true := by decide

/-! ### Management frames (V-MDIO) -/

-- M-6, the completion.
theorem test_mdioRead :
    after (step { busy 0x608A0000 63 with draws := { Draws.initial with agent := .mdio, phyAnswer := 0x0181 } })
    (fun t => t.events == [.mdioRead 1 2 0x0181] && t.regs.man.extractLsb' 0 16 == 0x0181#16 && t.regs.isr == 0x1
      && !t.mdio.busy) = true := by decide

-- M-7, the completion.
theorem test_mdioWrite : after (step { busy 0x509201E1 63 with draws := { Draws.initial with agent := .mdio } })
    (fun t => t.events == [.mdioWrite 1 4 0x01E1] && t.regs.isr == 0x1 && !t.mdio.busy) = true := by decide

/-! ### Procedures (V-SW) -/

-- S-1, S-2, E1.
theorem test_sendWord :
    sendWord 64 false false = 0x40 ∧ sendWord 36 true true = 0x40008024 ∧ sendWord 1 true false = 0x8001
    ∧ sendWord 64 false true = 0x40000040 := by decide

-- M-1, M-3, M-5.
theorem test_manWord :
    manWord 1 (.read 2) = 0x608A0000 ∧ manWord 1 (.write 4 0x01E1) = 0x509201E1
      ∧ manWord 31 (.write 31 0xFFFF) = 0x5FFEFFFF := by decide

-- N-1 to N-7, E6.
theorem test_resolve : resolveBits 0x01E1 = 3 ∧ resolveBits 0x00E1 = 1 ∧ resolveBits 0x00C1 = 1 ∧ resolveBits 0x0061 = 2
    ∧ resolveBits 0x0021 = 0 ∧ resolveBits 0x001F = 0 ∧ resolveBits 0x0141 = 3 := by decide

-- N-8.
theorem test_advertise :
    advertiseMask .advertiseAll = 0x01E1 ∧ advertiseMask (.fixed .full100) = 0x0101
      ∧ advertiseMask (.fixed .half100) = 0x0081
    ∧ advertiseMask (.fixed .full10) = 0x0041 ∧ advertiseMask (.fixed .half10) = 0x0021 := by decide

-- N-9, N-10.
theorem test_clkDiv :
    clkDiv 20000000 = some 0 ∧ clkDiv 20000001 = some 1 ∧ clkDiv 48000000 = some 2 ∧ clkDiv 80000001 = some 3
    ∧ clkDiv 160000000 = some 3 ∧ clkDiv 160000001 = none := by decide

-- P6, lines 8 and 9.
theorem test_stationAddress :
    stationBottomWord State.reset.sw.stationAddr = 0x44332211
      ∧ stationTopWord State.reset.sw.stationAddr = 0x6655 := by decide

-- R530: the wait holds while no input is ready and no timeout has elapsed.
theorem test_waitBlock_holds :
    after (agentStep .hostRx (hostAt State.reset .waitBlock)) (fun t => t.hostRx == standing .waitBlock) = true := by decide

-- C-1, the second slot.
theorem test_reclaimMark :
    after (agentStep .hostRx (hostAt { State.reset with sw := { State.reset.sw with txReclaim := 1 } } (.reclaimMark 0x40008024)))
    (fun t => readWord t.mem 0x2000000C == 0xC0008024 && t.sw.txReclaim == 0 && t.hostRx.stack == []) = true := by decide

/-- A descriptor array that lies inside the buffer its first descriptor names. -/
def selfNaming : State :=
  { State.reset with mem := writeWord (writeWord [] 0x20000100 0x20000100) 0x20000108 0x20002081 }

-- R164: a descriptor word inside a hardware-owned buffer is drawn.
theorem test_loadByte_drawn :
    after (agentStep .hostRx (hostAt selfNaming (.access (.load 0x20000108 4)))) (fun t => t.hostRx.ret == 0)
    && (readWord selfNaming.mem 0x20000108 == 0x20002081) = true := by decide

-- R160, R232: a byte access of the register window, and one of a descriptor word, also as four bytes.
theorem test_byteAccess_refused :
    refuses (andThen (perform (.loadBytes 0x400000FF 1) State.reset) fun _ => .next State.reset) .registerWidth
    && refuses (andThen (perform (.loadBytes 0x20000100 4) State.reset) fun _ => .next State.reset) .descriptorWidth
    && refuses (andThen (perform (.storeBytes 0x20000000 [1, 2, 3, 4]) State.reset) fun _ => .next State.reset) .descriptorWidth = true := by decide

-- R424: a collaborator that used the port returns only with `MPE = 0`.
theorem test_collaborator_holds :
    after (agentStep .hostRx (hostAt (withNcr 0x10) (.collaborator true))) (fun t => t.hostRx == standing (.collaborator true))
    && after (agentStep .hostRx (hostAt (withNcr 0x0C) (.collaborator true))) (fun t => t.hostRx.stack == []) = true := by decide

-- R565: the second write is of the local copy.
theorem test_station_local :
    after (agentStep .hostRx (hostAt { State.reset with sw := { State.reset.sw with stationAddr := #v[0, 0, 0, 0, 0, 0] } }
      (.stationTop #v[0x11, 0x22, 0x33, 0x44, 0x55, 0x66]))) (fun t => t.pw == [(.sa1t, 0x6655)]) = true := by decide

-- R453: the second chunk begins at `off`.
theorem test_sendCopy_second : after (agentStep .hostTx { State.reset with
      hostTx := standing (.sendCopy { frame := [1, 2, 3], off := 1, rem := 2, isLast := true })
      draws := { Draws.initial with agent := .hostTx } })
    (fun t => readBytes t.mem 0x20001000 2 == [2, 3] && t.mem.length == 2) = true := by decide

-- R453: the last chunk, after which `rem` is 0.
theorem test_sendLast_ends : sendAdvance Config.common { frame := [1, 2, 3], off := 1, rem := 2, isLast := true }
      = { frame := [1, 2, 3], off := 3, rem := 0, isLast := true }
    ∧ sendLast Config.common { frame := [1, 2, 3], off := 1, rem := 2, isLast := true } = true := by decide

-- R512 at the top of a 32-bit length.
theorem test_readCheck_wide :
    after (agentStep .hostRx (hostAt State.reset (.readCheck { dest := [], len := 0xFFFFFFFF, total := 0xFFFFFFFF })))
      (fun t => t.hostRx.stack != [])
    && faults (agentStep .hostRx (hostAt { State.reset with sw := { State.reset.sw with rxConsumed := 1 } }
      (.readCheck { dest := [], len := 0xFFFFFFFF, total := 0xFFFFFFFF }))) .readPrecondition = true := by decide

-- R450: the last TX descriptor.
theorem test_setupTxWord1_last :
    after (agentStep .hostRx (hostAt State.reset (.setupTxWord1 1))) (fun t => readWord t.mem 0x2000000C == 0xC0000000) = true := by decide

-- R653: before its first action the host calls `init()` and nothing else.
theorem test_firstAction :
    after (agentStep .hostTx { State.reset with draws := { Draws.initial with call := some .disable } })
      (fun t => t.hostTx.stack == [] && !t.started)
    && after (agentStep .hostTx { State.reset with draws := { Draws.initial with call := some .init } })
      (fun t => t.hostTx.stack == [.initHwReset] && t.started) = true := by decide

-- R650, R652: a platform reset keeps memory.
theorem test_platformReset : after (agentStep .reset (rxState 60 0 0x20000100 0x20002000))
    (fun t => t.regs == Regs.reset && t.rx.state == .idle && t.rx.ptr == 0
      && readWord t.mem 0x20000100 == 0x20002000) = true := by decide

-- R223, R405, R407, E5: 0x608A0000 is 0b01 0b10 00001 00010, and the controller releases the line at the turnaround.
theorem test_wire : (List.range 16).map (fun j => controllerDrives 0x608A0000 (32 + j))
    = [some false, some true, some true, some false, some false, some false, some false, some false, some true, some false,
      some false, some false, some true, some false, none, none] ∧ lineBit 0x608A0000 0x8001 48 = some true
    ∧ lineBit 0x608A0000 0x8001 49 = some false ∧ lineBit 0x608A0000 0x8001 63 = some true := by decide

-- R401: `MPE = 0`.
theorem test_mdioPin_off :
    mdioPin { busy 0x608A0000 0 with regs := Regs.reset } = none ∧ mdcHeld State.reset = true
      ∧ mdcHeld (withNcr 0x10) = false := by decide

-- R610.
theorem test_entry :
    after (agentStep .intc { State.reset with handler := true, regs := { Regs.reset with isr := 0x80, imask := 0xC7D } })
    (fun t => t.hostIsr.stack == [.eventIsr]) = true := by decide

/-! ### Witnesses: states and operands that meet the hypotheses of each statement -/

/-- `ISR`, `TSR`, `RSR` and the control registers at their largest values. -/
def fullRegs : State :=
  { State.reset with regs := { ncr := 0x1C, ncfg := 0xC03, tsr := 0x77, rsr := 0x7, isr := 0x4FF, imask := 0xCFF,
                               man := 0xFFFFFFFF, sa1b := 0xFFFFFFFF, sa1t := 0xFFFF, usrio := 0x3 } }

/-- A power-on and a platform reset in the middle of a frame. -/
theorem witness_AfterReset :
    AfterReset State.reset ∧ AfterReset (platformReset (rxState 60 0 0x20000100 0x20002000)) :=
  ⟨.inl ⟨_, _, rfl⟩, .inr ⟨_, rfl⟩⟩

theorem witness_ResetEnablesNoEngine :
    (Agent.txe = .txe ∨ Agent.txe = .rxe) ∧ (Agent.bus = .mdio ∨ Agent.bus = .bus) := by decide

/-- No call, another call, and a call of `init()` before the first action. -/
theorem witness_FirstHostActionIsInit :
    let s (k : Option Call) : State := { State.reset with draws := { Draws.initial with call := k } }
    State.reset.started = false ∧ State.reset.hostIsr.stack = [] ∧ (∀ id, (contextOf (s (some .init)) id).stack = [])
      ∧ (s none).draws.call ≠ some .init ∧ (s (some .disable)).draws.call ≠ some .init
      ∧ (s (some .init)).draws.call = some .init ∧ ContextId.tx ≠ .isr ∧ ContextId.rx ≠ .isr :=
  ⟨by decide, by decide, fun id => by cases id <;> rfl, by decide, by decide, by decide, by decide, by decide⟩

theorem witness_EncodeOfDecodeIsIdentity :
    decode .bus9 [0x24, 0x00, 0x07] = .ok (.rdIsr, [0x07]) := by decide

theorem witness_EncodingsOutsideTheTableAreRefused_refused :
    (0x130 : BusCommand) = 0x108 ∨ (0x130 : BusCommand) = 0x124 ∨ (0x130 : BusCommand) = 0x130 := by decide

theorem witness_EncodingsOutsideTheTableAreRefused_writeOnly :
    (0x02C : BusCommand) = 0x028 ∨ (0x02C : BusCommand) = 0x02C := by decide

theorem witness_EncodingsOutsideTheTableAreRefused_unlisted :
    ¬(0x1FF : BusCommand).extractLsb' 0 8 ∈ ([0x00, 0x04, 0x08, 0x14, 0x18, 0x1C, 0x20, 0x24, 0x28, 0x2C, 0x30, 0x34, 0x98, 0x9C, 0xC0]
      : List (BitVec 8)) := by decide

theorem witness_EncodingsOutsideTheTableAreRefused_listed :
    (0x1C0 : BusCommand).extractLsb' 0 8 ∈ ([0x00, 0x04, 0x08, 0x14, 0x18, 0x1C, 0x20, 0x24, 0x28, 0x2C, 0x30, 0x34, 0x98, 0x9C, 0xC0]
      : List (BitVec 8))
      ∧ (0x1C0 : BusCommand) ≠ 0x108 ∧ (0x1C0 : BusCommand) ≠ 0x124 ∧ (0x1C0 : BusCommand) ≠ 0x130
        ∧ (0x1C0 : BusCommand) ≠ 0x028
      ∧ (0x1C0 : BusCommand) ≠ 0x02C := by decide

theorem witness_StepRunsTheDecodedCommand_txe :
    let s := txState true .ok 0x20000000 0x20001000 0x8010
    configOk s.cfg = true ∧ s.draws.agent = .txe ∧ s.tx.state = .active ∧ s.tx.ptr &&& 0x7 = 0
      ∧ admitsRange s.cfg (s.tx.ptr + 4) 4 = true
      ∧ decode .txdW1 (readBytes s.mem (s.tx.ptr + 4) 4) = .ok (.txdLast (txf 16 false), []) := by decide

theorem witness_StepRunsTheDecodedCommand_rxe :
    let s := rxState 60 0 0x20000118 0x20002182
    configOk s.cfg = true ∧ s.draws.agent = .rxe ∧ rxEnabled s = true ∧ s.rx.state ≠ .idle ∧ s.rx.ptr &&& 0x7 = 0
      ∧ admitsRange s.cfg s.rx.ptr 4 = true
      ∧ decode .rxdW0 (readBytes s.mem s.rx.ptr 4) = .ok (.rxdFree (rxf 0x20002180 true), []) := by decide

theorem witness_StepRunsTheDecodedCommand_mdio :
    let s := { busy 0x608A0000 5 with draws := { Draws.initial with agent := .mdio } }
    configOk s.cfg = true ∧ s.draws.agent = .mdio ∧ s.mdio.busy = true
      ∧ decode .man32 (leBytes s.mdio.word) = .ok (.mdioRead { phya := 1, rega := 2, data := 0 }, []) := by decide

theorem witness_StepRunsTheDecodedCommand_bus :
    let s := { State.reset with pw := [(.ier, 0x82)], draws := { Draws.initial with agent := .bus } }
    configOk s.cfg = true ∧ s.draws.agent = .bus ∧ s.pw = (.ier, 0x82) :: []
      ∧ decode .bus9 (busBytes (busCommand true .ier) (leBytes 0x82)) = .ok (.wrIer 0x82, []) := by decide

-- `HOST_TX` at an access of its own to the last register of the window.
theorem witness_StepRunsTheDecodedCommand_tx :
    let s := { State.reset with hostTx := standing (.access (.load 0x400000C0 4)), draws := { Draws.initial with agent := .hostTx } }
    configOk s.cfg = true ∧ s.draws.agent = agentOf .tx ∧ (ContextId.tx = .isr ∨ isIdle s.hostIsr = true) ∧ s.pw = []
      ∧ (contextOf s .tx).stack = .access (.load 0x400000C0 4) :: [] ∧ (entersCritical (.access (.load 0x400000C0 4))
        && otherInCritical s .tx) = false
      ∧ opOf s.cfg s.sw s.draws (.access (.load 0x400000C0 4)) = .bus (.load 0x400000C0 4)
      ∧ (0x400000C0 : Word) &&& 0x3 = 0 ∧ touches 0x400000C0 4 s.cfg.emacBase 256 = true
      ∧ decode .bus9 (busBytes (commandAt s.cfg false 0x400000C0) []) = .ok (.rdUsrio, []) := by decide

-- `HOST_RX` at a line that enters a critical section.
theorem witness_StepRunsTheDecodedCommand_rx :
    let s := { State.reset with hostRx := standing .bnaReadNcr, draws := { Draws.initial with agent := .hostRx } }
    configOk s.cfg = true ∧ s.draws.agent = agentOf .rx ∧ (ContextId.rx = .isr ∨ isIdle s.hostIsr = true) ∧ s.pw = []
      ∧ (contextOf s .rx).stack = .bnaReadNcr :: [] ∧ (entersCritical .bnaReadNcr && otherInCritical s .rx) = false
      ∧ opOf s.cfg s.sw s.draws .bnaReadNcr = .regRead .ncr
      ∧ decode .bus9 (busBytes (busCommand false .ncr) []) = .ok (.rdNcr, []) := by decide

-- `HOST_ISR` at its `RD ISR`.
theorem witness_StepRunsTheDecodedCommand_isr :
    let s := { State.reset with hostIsr := standing .eventIsr, draws := { Draws.initial with agent := .hostIsr } }
    configOk s.cfg = true ∧ s.draws.agent = agentOf .isr ∧ (ContextId.isr = .isr ∨ isIdle s.hostIsr = true) ∧ s.pw = []
      ∧ (contextOf s .isr).stack = .eventIsr :: [] ∧ (entersCritical .eventIsr && otherInCritical s .isr) = false
      ∧ opOf s.cfg s.sw s.draws .eventIsr = .regRead .isr
      ∧ decode .bus9 (busBytes (busCommand false .isr) []) = .ok (.rdIsr, []) := by decide

/-- The premise of `RegisterReadsReturnTheirFields` and `IsrReadReturnsAndClears`, with every bit that may be set. -/
theorem witness_ReservedBitsZero : ReservedBitsZero fullRegs := by
  refine ⟨?_, ?_, ?_, ?_, ?_, ?_, ?_, ?_⟩ <;> decide

theorem witness_DrawnReadsReturnTheirDraws :
    State.reset.mdio.busy = false ∧ (busy 0x608A0000 63).mdio.busy = true := by decide

theorem witness_NcrWriteControlsTheEngines_reserved :
    (0x2 : Word).extractLsb' 0 2 ≠ 0#2 ∧ (0x100 : Word).extractLsb' 5 4 ≠ 0#4
      ∧ (0x400 : Word).extractLsb' 10 22 ≠ 0#22 := by decide

theorem witness_NcrWriteControlsTheEngines_hazard :
    ¬((0xC : Word).extractLsb' 0 2 ≠ 0#2 ∨ (0xC : Word).extractLsb' 5 4 ≠ 0#4 ∨ (0xC : Word).extractLsb' 10 22 ≠ 0#22)
      ∧ mgmtEnabled (busy 0x608A0000 0) = true ∧ (0xC : Word).getLsbD 4 = false
        ∧ (busy 0x608A0000 0).mdio.busy = true := by decide

theorem witness_NcrWriteControlsTheEngines_performed :
    ¬((0x21C : Word).extractLsb' 0 2 ≠ 0#2 ∨ (0x21C : Word).extractLsb' 5 4 ≠ 0#4 ∨ (0x21C : Word).extractLsb' 10 22 ≠ 0#22)
      ∧ ¬(mgmtEnabled (busy 0x608A0000 0) = true ∧ (0x21C : Word).getLsbD 4 = false
        ∧ (busy 0x608A0000 0).mdio.busy = true) := by decide

theorem witness_ConfigurationWritesStore_reserved :
    (0x4 : Word).extractLsb' 2 8 ≠ 0#8 ∧ (0x1000 : Word).extractLsb' 12 20 ≠ 0#20 := by decide

theorem witness_ConfigurationWritesStore_hazard :
    ¬((0xC03 : Word).extractLsb' 2 8 ≠ 0#8 ∨ (0xC03 : Word).extractLsb' 12 20 ≠ 0#20)
      ∧ (busy 0x608A0000 0).mdio.busy = true
      ∧ (0xC03 : Word).extractLsb' 10 2 ≠ (busy 0x608A0000 0).regs.ncfg.extractLsb' 10 2 := by decide

theorem witness_ConfigurationWritesStore_performed :
    ¬((0x803 : Word).extractLsb' 2 8 ≠ 0#8 ∨ (0x803 : Word).extractLsb' 12 20 ≠ 0#20)
      ∧ ¬((busy 0x608A0000 0).mdio.busy = true
        ∧ (0x803 : Word).extractLsb' 10 2 ≠ (busy 0x608A0000 0).regs.ncfg.extractLsb' 10 2) := by decide

theorem witness_StatusWritesClearTheWrittenOnes :
    (0x80 : Word).extractLsb' 7 25 ≠ 0#25 ∧ (0x7F : Word).extractLsb' 7 25 = 0#25 ∧ (0x8 : Word).extractLsb' 3 29 ≠ 0#29
      ∧ (0x7 : Word).extractLsb' 3 29 = 0#29 := by decide

theorem witness_QueuePointerWritesSetBaseAndPointer_misaligned :
    (0x4 : Word).extractLsb' 0 3 ≠ 0#3 ∧ (0xFFFFFFFF : Word).extractLsb' 0 3 ≠ 0#3 := by decide

theorem witness_QueuePointerWritesSetBaseAndPointer_receiving :
    (0xFFFFFFF8 : Word).extractLsb' 0 3 = 0#3
      ∧ (rxEnabled (withNcr 0x4) = true ∨ (withNcr 0x4).rx.state ≠ .idle) := by decide

theorem witness_QueuePointerWritesSetBaseAndPointer_idle :
    (0xFFFFFFF8 : Word).extractLsb' 0 3 = 0#3 ∧ rxEnabled (withNcr 0x18) = false ∧ (withNcr 0x18).rx.state = .idle
      ∧ (withNcr 0x18).tx.state = .idle := by decide

theorem witness_QueuePointerWritesSetBaseAndPointer_transmitting :
    (0x0 : Word).extractLsb' 0 3 = 0#3 ∧ (txState true .ok 0x20000000 0 0).tx.state = .active := by decide

theorem witness_MaskWritesUnmaskAndMask :
    (0x100 : Word) &&& ~~~0xCFF ≠ 0 ∧ (0x1000 : Word) &&& ~~~0xCFF ≠ 0 ∧ (0xCFF : Word) &&& ~~~0xCFF = 0 := by decide

theorem witness_ManWriteStoresOrStartsAFrame_busy :
    (busy 0x608A0000 0).mdio.busy = true := by decide

theorem witness_ManWriteStoresOrStartsAFrame_stored :
    (withNcr 0xC).mdio.busy = false ∧ mgmtEnabled (withNcr 0xC) = false := by decide

theorem witness_ManWriteStoresOrStartsAFrame_reserved :
    (withNcr 0x10).mdio.busy = false ∧ mgmtEnabled (withNcr 0x10) = true
      ∧ decodeMan 0x70020000 = .error .manReserved := by decide

theorem witness_ManWriteStoresOrStartsAFrame_starts :
    (withNcr 0x10).mdio.busy = false ∧ mgmtEnabled (withNcr 0x10) = true ∧ ∃ i, decodeMan 0x5FFEFFFF = .ok i :=
  ⟨by decide, by decide, .mdioWrite { phya := 31, rega := 31, data := 0xFFFF }, by decide⟩

theorem witness_ConfigurationWritesStore_station :
    (0x10000 : Word).extractLsb' 16 16 ≠ 0#16 ∧ (0xFFFF : Word).extractLsb' 16 16 = 0#16
      ∧ (0x4 : Word).extractLsb' 2 30 ≠ 0#30
      ∧ (0x3 : Word).extractLsb' 2 30 = 0#30 := by decide

/-- `TXD_BUF` of one byte at the last descriptor before the top, and of the longest buffer, with `WRAP`, at the top. -/
theorem witness_TxdBufGathersAndAdvances :
    (TxProcessable (txf 1 false) (txState true .ok 0xFFFFFFF0 0x20001000 0x1)
      ∧ ((txf 1 false).wrap = true ∨ (txState true .ok 0xFFFFFFF0 0x20001000 0x1).tx.ptr ≠ 0xFFFFFFF8))
    ∧ TxProcessable (txf 2047 true) (txState true .ok 0xFFFFFFF8 0x20001000 0x400007FF)
      ∧ ((txf 2047 true).wrap = true ∨ (txState true .ok 0xFFFFFFF8 0x20001000 0x400007FF).tx.ptr ≠ 0xFFFFFFF8) :=
  ⟨⟨⟨by decide, by decide, by decide, by decide, by decide⟩, by decide⟩,
    ⟨by decide, by decide, by decide, by decide, by decide +kernel⟩, by decide⟩

theorem witness_TxdLastCompletesTheFrame_ok :
    let s := txState true .ok 0x20000000 0x20001000 0x8010
    TxProcessable (txf 16 false) s ∧ descriptorOk s.cfg (txFirst s) = true
      ∧ TxOutcome.ok = mediumOutcome (fullDuplex s) s.draws.outcome
      ∧ ((txf 16 false).wrap = true ∨ s.tx.ptr ≠ 0xFFFFFFF8) :=
  ⟨⟨by decide, by decide, by decide, by decide, by decide⟩, by decide, by decide, by decide⟩

theorem witness_TxdLastCompletesTheFrame_okCol :
    let s := txState false .okCol 0x20000000 0x20001000 0x8010
    TxProcessable (txf 16 false) s ∧ descriptorOk s.cfg (txFirst s) = true
      ∧ TxOutcome.okCol = mediumOutcome (fullDuplex s) s.draws.outcome
      ∧ ((txf 16 false).wrap = true ∨ s.tx.ptr ≠ 0xFFFFFFF8) :=
  ⟨⟨by decide, by decide, by decide, by decide, by decide⟩, by decide, by decide, by decide⟩

theorem witness_TxdLastCompletesTheFrame_und :
    let s := txState true .und 0x20000000 0x20001000 0x8010
    TxProcessable (txf 16 false) s ∧ descriptorOk s.cfg (txFirst s) = true
      ∧ TxOutcome.und = mediumOutcome (fullDuplex s) s.draws.outcome
      ∧ ((txf 16 false).wrap = true ∨ s.tx.ptr ≠ 0xFFFFFFF8) :=
  ⟨⟨by decide, by decide, by decide, by decide, by decide⟩, by decide, by decide, by decide⟩

theorem witness_TxdLastCompletesTheFrame_rle :
    let s := txState false .rle 0x20000000 0x20001000 0x8010
    TxProcessable (txf 16 false) s ∧ descriptorOk s.cfg (txFirst s) = true
      ∧ TxOutcome.rle = mediumOutcome (fullDuplex s) s.draws.outcome
      ∧ ((txf 16 false).wrap = true ∨ s.tx.ptr ≠ 0xFFFFFFF8) :=
  ⟨⟨by decide, by decide, by decide, by decide, by decide⟩, by decide, by decide, by decide⟩

-- An error with `RESET_TO_BASE` at the top of the address space, where no pointer advances.
theorem witness_TxdLastCompletesTheFrame_und_top :
    let s := txState true .und 0xFFFFFFF8 0x20001000 0x8010
    TxProcessable (txf 16 false) s ∧ descriptorOk s.cfg (txFirst s) = true
      ∧ TxOutcome.und = mediumOutcome (fullDuplex s) s.draws.outcome
      ∧ (TxOutcome.und = .und ∨ TxOutcome.und = .rle) ∧ s.cfg.txErrPtr = .resetToBase :=
  ⟨⟨by decide, by decide, by decide, by decide, by decide⟩, by decide, by decide, by decide⟩

theorem witness_TxdLastCompletesTheFrame_rle_top :
    let s := txState false .rle 0xFFFFFFF8 0x20001000 0x8010
    TxProcessable (txf 16 false) s ∧ descriptorOk s.cfg (txFirst s) = true
      ∧ TxOutcome.rle = mediumOutcome (fullDuplex s) s.draws.outcome
      ∧ (TxOutcome.rle = .und ∨ TxOutcome.rle = .rle) ∧ s.cfg.txErrPtr = .resetToBase :=
  ⟨⟨by decide, by decide, by decide, by decide, by decide⟩, by decide, by decide, by decide⟩

theorem witness_TxdStopEndsARunOrCutsAFrame_boundary :
    (txState true .ok 0x20000000 0 0x80000000).tx.state = .active
      ∧ (txState true .ok 0x20000000 0 0x80000000).tx.frame = none := by decide

theorem witness_TxdStopEndsARunOrCutsAFrame_midFrame :
    (midFrame (txState true .ok 0x20000008 0 0xC0000000) 0x40).tx.state = .active
      ∧ (midFrame (txState true .ok 0x20000008 0 0xC0000000) 0x40).tx.frame = some { first := 0x20000000, bytes := [1, 2] }
      ∧ descriptorOk (midFrame (txState true .ok 0x20000008 0 0xC0000000) 0x40).cfg 0x20000000 = true
      ∧ (midFrame (txState true .ok 0x20000008 0 0xC0000000) 0x40).cfg.txErrPtr = .resetToBase
      ∧ (holding (midFrame (txState true .ok 0x20000008 0 0xC0000000) 0x40)).cfg.txErrPtr = .hold := by decide

theorem witness_OwnedTxDescriptorsAreChecked_reserved :
    (txState true .ok 0x20000000 0x20001000 0).tx.state = .active
      ∧ (txw 0x8000).len = 0 ∧ (txw 0xC010).resLow ≠ 0 ∧ (txw 0x18010).resHigh ≠ 0 := by decide

/-- A misaligned buffer, and one whose last byte is the first of the register window. -/
theorem witness_OwnedTxDescriptorsAreChecked_bad :
    ((txState true .ok 0x20000000 0x20001002 0).tx.state = .active
      ∧ descriptorOk (txState true .ok 0x20000000 0x20001002 0).cfg (txState true .ok 0x20000000 0x20001002 0).tx.ptr = true
      ∧ ¬((txf 16 false).len = 0 ∨ (txf 16 false).resLow ≠ 0 ∨ (txf 16 false).resHigh ≠ 0)
      ∧ (readWord (txState true .ok 0x20000000 0x20001002 0).mem (txState true .ok 0x20000000 0x20001002 0).tx.ptr).extractLsb' 0 2 ≠ 0#2)
    ∧ (txState true .ok 0x20000000 0x3FFFFFFC 0).tx.state = .active
      ∧ descriptorOk (txState true .ok 0x20000000 0x3FFFFFFC 0).cfg (txState true .ok 0x20000000 0x3FFFFFFC 0).tx.ptr = true
      ∧ ¬((txf 5 false).len = 0 ∨ (txf 5 false).resLow ≠ 0 ∨ (txf 5 false).resHigh ≠ 0)
      ∧ ∃ k, k < (txf 5 false).len.toNat
        ∧ admits (txState true .ok 0x20000000 0x3FFFFFFC 0).cfg ((readWord (txState true .ok 0x20000000 0x3FFFFFFC 0).mem (txState true .ok 0x20000000 0x3FFFFFFC 0).tx.ptr).toNat + k) = false :=
  ⟨by decide, by decide, by decide, by decide, 4, by decide⟩

/-- A descriptor in the last words of the register window, and one that is not 8-aligned, whose word 1 is the window's first.
-/
theorem witness_OwnedTxDescriptorsAreChecked_descriptor :
    let s := txState true .ok 0x400000F8 0x20001000 0x8010
    let t := txState true .ok 0x3FFFFFFC 0x20001000 0x8010
    (s.tx.state = .active ∧ descriptorOk s.cfg s.tx.ptr = false
      ∧ ∃ k, k < 4 ∧ admits s.cfg ((s.tx.ptr + 4).toNat + k) = false)
    ∧ t.tx.state = .active ∧ descriptorOk t.cfg t.tx.ptr = false ∧ t.tx.ptr &&& 0x7 ≠ 0 :=
  ⟨⟨by decide, by decide, 3, by decide⟩, by decide, by decide, by decide⟩

theorem witness_TxPointerDoesNotPassTheTop_ok :
    let s := txState true .ok 0xFFFFFFF8 0x20001000 0x8010
    TxProcessable (txf 16 false) s ∧ (txf 16 false).wrap = false ∧ s.tx.ptr = 0xFFFFFFF8
      ∧ descriptorOk s.cfg (txFirst s) = true ∧ mediumOutcome (fullDuplex s) s.draws.outcome = .ok :=
  ⟨⟨by decide, by decide, by decide, by decide, by decide⟩, by decide, by decide, by decide, by decide⟩

theorem witness_TxPointerDoesNotPassTheTop_okCol :
    let s := txState false .okCol 0xFFFFFFF8 0x20001000 0x8010
    TxProcessable (txf 16 false) s ∧ (txf 16 false).wrap = false ∧ s.tx.ptr = 0xFFFFFFF8
      ∧ descriptorOk s.cfg (txFirst s) = true ∧ mediumOutcome (fullDuplex s) s.draws.outcome = .okCol :=
  ⟨⟨by decide, by decide, by decide, by decide, by decide⟩, by decide, by decide, by decide, by decide⟩

theorem witness_TxPointerDoesNotPassTheTop_und_hold :
    let s := holding (txState true .und 0xFFFFFFF8 0x20001000 0x8010)
    TxProcessable (txf 16 false) s ∧ (txf 16 false).wrap = false ∧ s.tx.ptr = 0xFFFFFFF8
      ∧ descriptorOk s.cfg (txFirst s) = true ∧ mediumOutcome (fullDuplex s) s.draws.outcome = .und
        ∧ s.cfg.txErrPtr = .hold :=
  ⟨⟨by decide, by decide, by decide, by decide, by decide⟩, by decide, by decide, by decide, by decide⟩

theorem witness_TxPointerDoesNotPassTheTop_rle_hold :
    let s := holding (txState false .rle 0xFFFFFFF8 0x20001000 0x8010)
    TxProcessable (txf 16 false) s ∧ (txf 16 false).wrap = false ∧ s.tx.ptr = 0xFFFFFFF8
      ∧ descriptorOk s.cfg (txFirst s) = true ∧ mediumOutcome (fullDuplex s) s.draws.outcome = .rle
        ∧ s.cfg.txErrPtr = .hold :=
  ⟨⟨by decide, by decide, by decide, by decide, by decide⟩, by decide, by decide, by decide, by decide⟩

/-- The premise of `TxFormsLeaveTheRestAlone`: each form answers a next state. -/
theorem witness_TxForms :
    after (exec (.txdStop false (txf 0 false)) (midFrame (txState true .ok 0x20000008 0 0xC0000000) 0x40)) (fun _ => true)
      && after (exec (.txdBuf (txf 16 false)) (txState true .ok 0x20000000 0x20001000 0x8010)) (fun _ => true)
      && after (exec (.txdLast (txf 16 false)) (txState true .ok 0x20000000 0x20001000 0x8010)) (fun _ => true) = true := by decide

theorem witness_DisabledEnginesHold :
    State.reset.tx.state = .idle ∧ rxEnabled State.reset = false ∧ (withNcr 0x4).rx.state = .idle
      ∧ State.reset.mdio.busy = false ∧ (Instr.txdBuf (txf 1 false)).format = .txdW1
      ∧ (Instr.rxdFull (rxf 0 false)).format = .rxdW0
        ∧ (Instr.mdioRead { phya := 0, rega := 0, data := 0 }).format = .man32 := by decide

-- The last buffer, full, at the top of the address space with `WRAP`.
theorem witness_RxdFreeFillsABuffer_last :
    (rxState 128 0 0xFFFFFFF8 0).rx.state = .frame { bytes := List.replicate 128 0xAB, pos := 0, first := true }
      ∧ rxEnabled (rxState 128 0 0xFFFFFFF8 0) = true
      ∧ admitsRange (rxState 128 0 0xFFFFFFF8 0).cfg ((rxf 0x20002180 true).addr ++ 0#2) 128 = true
        ∧ descriptorOk (rxState 128 0 0xFFFFFFF8 0).cfg (rxState 128 0 0xFFFFFFF8 0).rx.ptr = true
      ∧ ((rxf 0x20002180 true).wrap = true ∨ (rxState 128 0 0xFFFFFFF8 0).rx.ptr ≠ 0xFFFFFFF8)
      ∧ 0 + min 128 (128 - 0) = 128 :=
  ⟨by decide, by decide, by decide +kernel, by decide, by decide, by decide⟩

-- A buffer that is not the last, by one byte.
theorem witness_RxdFreeFillsABuffer_middle :
    (rxState 129 0 0x20000108 0).rx.state = .frame { bytes := List.replicate 129 0xAB, pos := 0, first := true }
      ∧ rxEnabled (rxState 129 0 0x20000108 0) = true
      ∧ admitsRange (rxState 129 0 0x20000108 0).cfg ((rxf 0x20002080 false).addr ++ 0#2) 128 = true
        ∧ descriptorOk (rxState 129 0 0x20000108 0).cfg (rxState 129 0 0x20000108 0).rx.ptr = true
      ∧ ((rxf 0x20002080 false).wrap = true ∨ (rxState 129 0 0x20000108 0).rx.ptr ≠ 0xFFFFFFF8)
      ∧ ¬0 + min 128 (129 - 0) = 129 :=
  ⟨by decide, by decide, by decide +kernel, by decide, by decide, by decide⟩

/-- A buffer far from its descriptor, and the step that fills it. -/
theorem witness_FilledBufferIsPublished :
    (rxState 129 128 0x20000108 0x20002080).rx.state = .frame { bytes := List.replicate 129 0xAB, pos := 128, first := false } ∧ rxEnabled (rxState 129 128 0x20000108 0x20002080) = true
      ∧ after (exec (.rxdFree (rxf 0x20002080 false)) (rxState 129 128 0x20000108 0x20002080)) (fun _ => true) = true
      ∧ ∀ x, inSpan x ((rxf 0x20002080 false).addr ++ 0#2) 128 = true → inSpan x (rxState 129 128 0x20000108 0x20002080).rx.ptr 8 = false := by
  refine ⟨by decide, by decide, by decide +kernel, fun x h => ?_⟩
  have ha : ((rxf 0x20002080 false).addr ++ 0#2 : Word) = 0x20002080 := by decide
  rw [ha] at h
  simp only [inSpan, decide_eq_true_eq] at h
  show decide ((x - 0x20000108).toNat < 8) = false
  apply decide_eq_false
  have hx := x.isLt
  have e1 : (0x20002080 : Word).toNat = 536879232 := rfl
  have e2 : (0x20000108 : Word).toNat = 536871176 := rfl
  rw [BitVec.toNat_sub, e1] at h
  rw [BitVec.toNat_sub, e2]
  omega

theorem witness_RxEngineWritesOnlyWhatItOwns :
    after (agentStep .rxe (rxState 60 0 0x20000100 0x20002000)) (fun _ => true)
      && after (agentStep .rxe (rxState 60 0 0x20000100 0x20002001)) (fun _ => true)
      && (readWord (rxState 60 0 0x20000100 0x20002001).mem (rxState 60 0 0x20000100 0x20002001).rx.ptr).getLsbD 0 = true :=
  by decide +kernel

theorem witness_RxdFullDropsTheFrame :
    (rxState 60 0 0x20000100 0x20002001).rx.state = .frame { bytes := List.replicate 60 0xAB, pos := 0, first := true }
      ∧ rxEnabled (rxState 60 0 0x20000100 0x20002001) = true := by decide

/-- A buffer that ends in the register window: byte 127 is its first byte that is not admitted. -/
theorem witness_RxdFreeFaults_buffer :
    (rxState 60 0 0x20000100 0x20002001).rx.state = .frame { bytes := List.replicate 60 0xAB, pos := 0, first := true }
      ∧ rxEnabled (rxState 60 0 0x20000100 0x20002001) = true
      ∧ ∃ k, k < 128
        ∧ admits (rxState 60 0 0x20000100 0x20002001).cfg (((rxf 0x3FFFFF84 false).addr ++ 0#2 : Word).toNat + k) = false :=
  ⟨by decide, by decide, 127, by decide⟩

/-- A descriptor in the last words of the register window, and one that is not 8-aligned. -/
theorem witness_RxdFreeFaults_descriptor :
    ((rxState 60 0 0x400000F8 0x20002000).rx.state = .frame { bytes := List.replicate 60 0xAB, pos := 0, first := true }
      ∧ rxEnabled (rxState 60 0 0x400000F8 0x20002000) = true
      ∧ descriptorOk (rxState 60 0 0x400000F8 0x20002000).cfg (rxState 60 0 0x400000F8 0x20002000).rx.ptr = false
        ∧ ∃ k, k < 4
        ∧ admits (rxState 60 0 0x400000F8 0x20002000).cfg ((rxState 60 0 0x400000F8 0x20002000).rx.ptr.toNat + k) = false)
    ∧ (rxState 60 0 0x3FFFFFFC 0x20002000).rx.state = .frame { bytes := List.replicate 60 0xAB, pos := 0, first := true }
      ∧ rxEnabled (rxState 60 0 0x3FFFFFFC 0x20002000) = true
      ∧ descriptorOk (rxState 60 0 0x3FFFFFFC 0x20002000).cfg (rxState 60 0 0x3FFFFFFC 0x20002000).rx.ptr = false
        ∧ (rxState 60 0 0x3FFFFFFC 0x20002000).rx.ptr &&& 0x7 ≠ 0 :=
  ⟨⟨by decide, by decide, by decide, 3, by decide⟩, by decide, by decide, by decide, by decide⟩

theorem witness_RxdFreeFaults_top :
    (rxState 60 0 0xFFFFFFF8 0x20002000).rx.state = .frame { bytes := List.replicate 60 0xAB, pos := 0, first := true }
      ∧ rxEnabled (rxState 60 0 0xFFFFFFF8 0x20002000) = true
      ∧ admitsRange (rxState 60 0 0xFFFFFFF8 0x20002000).cfg ((rxf 0x20002000 false).addr ++ 0#2) 128 = true
        ∧ descriptorOk (rxState 60 0 0xFFFFFFF8 0x20002000).cfg (rxState 60 0 0xFFFFFFF8 0x20002000).rx.ptr = true
      ∧ (rxf 0x20002000 false).wrap = false ∧ (rxState 60 0 0xFFFFFFF8 0x20002000).rx.ptr = 0xFFFFFFF8 :=
  ⟨by decide, by decide, by decide +kernel, by decide, by decide, by decide⟩

theorem witness_RxFormsLeaveTheRestAlone :
    after (exec (.rxdFree (rxf 0x20002000 false)) (rxState 60 0 0x20000100 0x20002001)) (fun _ => true)
      && after (exec (.rxdFull (rxf 0x20002000 false)) (rxState 60 0 0x20000100 0x20002001)) (fun _ => true) = true := by decide +kernel

/-- An offer of the shortest and of the longest frame, an overrun, and a disabled receiver. -/
theorem witness_MediumOffersAndOverruns :
    rxEnabled State.reset = false
      ∧ (rxEnabled (withNcr 0x4) = true ∧ (withNcr 0x4).rx.state = .idle)
      ∧ (rxEnabled (rxState 60 0 0x20000100 0) = true ∧ (rxState 60 0 0x20000100 0).rx.state ≠ .idle)
      ∧ (1 ≤ [(7 : Byte)].length ∧ [(7 : Byte)].length ≤ State.reset.cfg.rxMaxFrame)
      ∧ (1 ≤ (List.replicate 1536 (0 : Byte)).length
        ∧ (List.replicate 1536 (0 : Byte)).length ≤ State.reset.cfg.rxMaxFrame) :=
  ⟨by decide, by decide, by decide, by decide, by rw [List.length_replicate]; decide⟩

theorem witness_ManagementFramesCountAndComplete_last :
    (busy 0x608A0000 63).mdio.busy = true ∧ (busy 0x608A0000 63).mdio.bit = 63 := by decide

theorem witness_ManagementFramesCountAndComplete_count :
    (busy 0x608A0000 62).mdio.busy = true ∧ (busy 0x608A0000 62).mdio.bit < 63
      ∧ (busy 0x608A0000 0).mdio.bit < 63 := by decide

/-- A legal read word and a legal write word; the port off, on and idle, on in the last period of a read. -/
theorem witness_ManagementFrameOnTheWire :
    manLegal 0x608A0000 = true ∧ isReadFrame 0x608A0000 = true ∧ manLegal 0x5FFEFFFF = true
      ∧ isReadFrame 0x5FFEFFFF = false
      ∧ mgmtEnabled State.reset = false ∧ mgmtEnabled (busy 0x608A0000 63) = true ∧ (busy 0x608A0000 63).mdio.busy = true
      ∧ (busy 0x608A0000 63).mdio.bit = 63 ∧ isReadFrame (busy 0x608A0000 63).mdio.word = true
      ∧ (32 ≤ 32 ∧ 45 < 46) ∧ (48 ≤ 48 ∧ 63 < 64) ∧ 15 < 16 := by decide

theorem witness_ManagementFrameTakes64Steps :
    (busy 0x5FFEFFFF 0).mdio.busy = true ∧ (busy 0x5FFEFFFF 0).mdio.bit = 0
      ∧ manLegal (busy 0x5FFEFFFF 0).mdio.word = true
      ∧ 63 < 64 := by decide

theorem witness_ManagementFramesLeaveTheRestAlone :
    after (exec (.mdioRead { phya := 1, rega := 2, data := 0 }) (busy 0x608A0000 63)) (fun _ => true)
      && after (exec (.mdioWrite { phya := 1, rega := 4, data := 0x01E1 }) (busy 0x509201E1 0)) (fun _ => true) = true := by decide

theorem witness_RegisterOperationsLeaveTheRestAlone :
    (Instr.rdIsr).format = .bus9 ∧ after (exec .rdIsr fullRegs) (fun _ => true) = true ∧ Instr.isRegRead .rdIsr = true
      ∧ Instr.rdTsr ≠ .rdIsr ∧ after (exec (.wrNcr 0x21C) fullRegs) (fun _ => true) = true
      ∧ Instr.isRegRead (.wrNcr 0x21C) = false := by decide

/-- A step that raises the line: the engine completes a frame with `TCOMP` unmasked. -/
theorem witness_IrqChangesAreEvents :
    after (step { txState true .ok 0x20000000 0x20001000 0x8010 with
        regs := { Regs.reset with ncr := 0x0C, ncfg := 0x803, imask := 0xC7D } })
      (fun t => irqLine t && t.events.length == 2) = true := by decide

/-- The line is up and a handler is registered; the line is up and no handler is registered; the handler runs. -/
theorem witness_InterruptEntryStartsTheHandler :
    let up : State := { State.reset with regs := { Regs.reset with isr := 0x80, imask := 0xC7D } }
    let may (s : State) := irqLine s = true ∧ s.handler = true ∧ inCritical s.hostTx = false ∧ inCritical s.hostRx = false
      ∧ s.hostIsr.stack = []
    may { up with handler := true } ∧ ¬may up ∧ { up with hostIsr := standing .eventIsr }.hostIsr.stack ≠ [] := by decide

theorem witness_StatusBitsAreSticky :
    after (exec (.wrTsr 0) fullRegs) (fun _ => true) = true ∧ after (exec .rdNcr fullRegs) (fun _ => true) = true
      ∧ fullRegs.regs.tsr.getLsbD 6 = true ∧ fullRegs.regs.rsr.getLsbD 2 = true ∧ fullRegs.regs.isr.getLsbD 10 = true
      ∧ Instr.rdNcr ≠ .rdIsr ∧ Instr.rdNcr ≠ .wrTsr 0 ∧ Instr.rdNcr ≠ .wrRsr 0 := by decide

theorem witness_UsrioInfluencesNothing :
    Instr.rdIsr ≠ .rdUsrio ∧ ∀ v, Instr.rdIsr ≠ .wrUsrio v := ⟨by decide, fun _ h => nomatch h⟩

theorem witness_WritesArePostedAndReadsWait_writes :
    (Reg.ier ≠ .nsr ∧ Reg.ier ≠ .isr ∧ Reg.ier ≠ .imr) ∧ (Reg.imr = .nsr ∨ Reg.imr = .isr ∨ Reg.imr = .imr) := by decide

theorem witness_WritesArePostedAndReadsWait_reads :
    (Reg.ncr ≠ .ier ∧ Reg.ncr ≠ .idr ∧ { State.reset with pw := [(Reg.ncr, (0 : Word))] }.pw ≠ [])
      ∧ (Reg.idr = .ier ∨ Reg.idr = .idr) := by decide

theorem witness_WritesArePostedAndReadsWait_answers :
    ∃ t v, perform (.regRead .ncr) State.reset = .next (some (t, v)) := ⟨_, _, rfl⟩

-- The last two bytes of the window; an aligned word of it, which only a byte access is refused; a word that straddles
-- its start.
theorem witness_NarrowAccessesAreRefused_register :
    ([1, 2] : List Byte).length = 2 ∧ (2 ≠ 4 ∨ (0x400000FE : Word).extractLsb' 0 2 ≠ 0#2)
      ∧ touches 0x400000FE 2 State.reset.cfg.emacBase 256 = true ∧ ([1, 2, 3, 4] : List Byte).length = 4
      ∧ touches 0x400000FC 4 State.reset.cfg.emacBase 256 = true := by decide

theorem witness_NarrowAccessesAreRefused_unalignedRegister :
    ([1, 2, 3, 4] : List Byte).length = 4 ∧ (4 ≠ 4 ∨ (0x3FFFFFFD : Word).extractLsb' 0 2 ≠ 0#2)
      ∧ touches 0x3FFFFFFD 4 State.reset.cfg.emacBase 256 = true := by decide

theorem witness_NarrowAccessesAreRefused_descriptor :
    ([1] : List Byte).length = 1 ∧ (1 ≠ 4 ∨ (0x2000011F : Word).extractLsb' 0 2 ≠ 0#2)
      ∧ touches 0x2000011F 1 State.reset.cfg.emacBase 256 = false ∧ isDescriptorAccess State.reset.cfg 0x2000011F 1 = true
      ∧ ([1, 2, 3, 4] : List Byte).length = 4 ∧ touches 0x2000011C 4 State.reset.cfg.emacBase 256 = false
      ∧ isDescriptorAccess State.reset.cfg 0x2000011C 4 = true := by decide

/-- All four RX descriptors, the first owned by hardware, the others by software. -/
def ring : State :=
  { State.reset with
    mem := writeWord (writeWord (writeWord (writeWord [] 0x20000100 0x20002000) 0x20000108 0x20002081) 0x20000110 0x20002101)
      0x20000118 0x20002183 }

/-- The last byte of the buffer of slot 0. -/
theorem witness_HardwareOwnedBufferReadsAreDraws_owned :
    isDescriptorAccess ring.cfg 0x2000207C 4 = false ∧ 3 < 4
      ∧ ∃ i, i < ring.cfg.rxCount ∧ (readWord ring.mem (descRx ring.cfg i)).getLsbD 0 = false
        ∧ inSpan (0x2000207C + BitVec.ofNat 32 3) (readWord ring.mem (descRx ring.cfg i) &&& 0xFFFFFFFC) 128 = true :=
  ⟨by decide, by decide, 0, by decide⟩

/-- Byte 3 of a descriptor word inside the buffer of the first descriptor. -/
theorem witness_HardwareOwnedBufferReadsAreDraws_descriptor :
    (4 = 4 ∧ (0x20000108 : Word) &&& 0x3 = 0) ∧ 3 < 4
      ∧ ∃ i, i < selfNaming.cfg.rxCount ∧ (readWord selfNaming.mem (descRx selfNaming.cfg i)).getLsbD 0 = false
        ∧ inSpan (0x20000108 + BitVec.ofNat 32 3) (readWord selfNaming.mem (descRx selfNaming.cfg i) &&& 0xFFFFFFFC) 128
          = true :=
  ⟨by decide, by decide, 0, by decide⟩

/-- The first byte after the buffer of slot 0. -/
theorem witness_HardwareOwnedBufferReadsAreDraws_other :
    isDescriptorAccess ring.cfg 0x2000207C 5 = false ∧ 4 < 5
      ∧ ∀ i, i < ring.cfg.rxCount → (readWord ring.mem (descRx ring.cfg i)).getLsbD 0 = false →
        inSpan (0x2000207C + BitVec.ofNat 32 4) (readWord ring.mem (descRx ring.cfg i) &&& 0xFFFFFFFC) 128 = false :=
  ⟨by decide, by decide, by decide⟩

/-- A store into the last byte of a hardware-owned RX buffer while reception is enabled. -/
theorem witness_OwnershipViolationsFaultAfterTheStore_rx :
    let s := { ring with regs := { Regs.reset with ncr := 0x4 } }
    isDescriptorAccess s.cfg 0x2000207F [(1 : Byte)].length = false ∧ rxEnabled s = true
      ∧ breaksRxOwnership s 0x2000207F [(1 : Byte)].length = true := by decide

/-- A store into word 0 of a hardware-owned TX descriptor while the engine is active. -/
theorem witness_OwnershipViolationsFaultAfterTheStore_tx :
    let s := { txState true .ok 0x20000000 0x20001000 0x8010 with regs := Regs.reset }
    [(1 : Byte), 2, 3, 4].length = 4 ∧ (0x20000000 : Word) &&& 0x3 = 0 ∧ rxEnabled s = false ∧ s.rx.state = .idle
      ∧ s.tx.state = .active ∧ breaksTxOwnership s 0x20000000 [(1 : Byte), 2, 3, 4].length = true := by decide

/-- The same store with reception and transmission off. -/
theorem witness_OwnershipViolationsFaultAfterTheStore_none :
    isDescriptorAccess ring.cfg 0x2000207F [(1 : Byte)].length = false ∧ rxEnabled ring = false ∧ ring.rx.state = .idle
      ∧ ring.tx.state = .idle := by decide

theorem witness_HandoverWordsDecodeAsSent :
    1 ≤ 1 ∧ 1 ≤ 2047 ∧ 1 ≤ 2047 ∧ 2047 ≤ 2047 := by decide

theorem witness_ResolutionPrefersSpeedThenDuplex :
    (0x0100 : Half).getLsbD 8 = true ∧ ((0x0080 : Half).getLsbD 8 = false ∧ (0x0080 : Half).getLsbD 7 = true)
      ∧ ((0x0040 : Half).getLsbD 8 = false ∧ (0x0040 : Half).getLsbD 7 = false ∧ (0x0040 : Half).getLsbD 6 = true)
      ∧ ((0xFE3F : Half).getLsbD 8 = false ∧ (0xFE3F : Half).getLsbD 7 = false
        ∧ (0xFE3F : Half).getLsbD 6 = false) := by decide

theorem witness_ClockDividerKeepsMdcInRange :
    clkDiv 20000000 = some 0 ∧ clkDiv 20000001 = some 1 ∧ clkDiv 40000000 = some 1 ∧ clkDiv 40000001 = some 2
      ∧ clkDiv 80000000 = some 2 ∧ clkDiv 80000001 = some 3 ∧ clkDiv 160000000 = some 3 ∧ clkDiv 160000001 = none
      ∧ (1 : BitVec 2) ≠ 0 := by decide

theorem witness_ReadPreconditionFaults :
    ({ dest := [], len := 6, total := 300 } : ReadLocals).total.toNat < (6 : Word).toNat + { State.reset.sw with rxConsumed := 295 }.rxConsumed
      ∧ (0x20002000 : Word).getLsbD 0 = false := by decide

/-- The PHY has answered the two identity reads with `PHY_ID`; another value in the second. -/
def identified : State :=
  { State.reset with
    events := [.mdioRead 1 2 0x0181, .mdioRead 1 3 0xB8A0]
    hostTx := { stack := [.probeCompare 0x0181], ret := 0xB8A0, data := [] } }

theorem witness_ProbeFailsExactlyOnAnotherIdentity :
    (0x0181#16 ++ (contextOf identified .tx).ret.setWidth 16 = identified.cfg.phyId
      ∧ 0x0181#16 ++ (contextOf State.reset .tx).ret.setWidth 16 ≠ State.reset.cfg.phyId)
    ∧ PhyPresent identified.cfg identified.events
      ∧ .mdioRead identified.cfg.phyAddr 2 0x0181 ∈ identified.events
      ∧ .mdioRead identified.cfg.phyAddr 3 ((contextOf identified .tx).ret.setWidth 16) ∈ identified.events :=
  ⟨⟨by decide, by decide⟩,
    fun v => ⟨fun h => by simp [identified] at h; exact h.2, fun h => by simp [identified] at h; exact h.2⟩,
    by decide, by decide⟩

theorem witness_SetupEstablishesTheRings :
    let s := { State.reset with hostTx := { stack := [.setupTxWord0 0, .initReadNcfg], ret := 0, data := [] } }
    configOk s.cfg = true ∧ ContextId.tx ≠ .isr ∧ isIdle s.hostIsr = true
      ∧ (contextOf s .tx).stack = .setupTxWord0 0 :: [.initReadNcfg] ∧ rxEnabled s = false ∧ s.rx.state = .idle
      ∧ s.tx.state = .idle := by decide

/-- The rings as `setup()` leaves them, with `w` in the first TX descriptor's word 1 and `v` in the last RX descriptor's word
0,
both engines running at the last RX and the first TX descriptor. -/
def ringed (w v : Word) : State :=
  { withNcr 0x0C with
    tx := { state := .active, base := 0x20000000, ptr := 0x20000000, frame := none }
    rx := { state := .frame { bytes := [1], pos := 0, first := true }, base := 0x20000100, ptr := 0x20000118 }
    pw := [(.tbqp, 0x20000000), (.rbqp, 0x20000100)]
    mem := writeWord (writeWord (writeWord (writeWord (writeWord (writeWord [] 0x20000100 0x20002000) 0x20000108 0x20002080)
      0x20000110 0x20002100) 0x20000118 v) 0x20000004 w) 0x2000000C 0xC0000000 }

/-- The rings, the step of each engine in them, and lines of procedures that write a slot back. -/
theorem witness_RingInvariantIsKept :
    RingsOk (ringed 0x80000000 0x20002182) ∧ configOk (ringed 0x80000000 0x20002182).cfg = true
      ∧ after (agentStep .txe (ringed 0x80000000 0x20002182)) (fun _ => true) = true
      ∧ after (agentStep .rxe (ringed 0x80000000 0x20002182)) (fun _ => true) = true
      ∧ CursorsInRings State.reset
      ∧ LineKeepsWrap Config.common { State.reset.sw with txReclaim := 1 } (.reclaimMark 0xC0008010)
      ∧ LineKeepsWrap Config.common State.reset.sw (.readReclaim { dest := [], len := 0, total := 0 } 0x20002001)
      ∧ LineKeepsWrap Config.common State.reset.sw (.bnaReclaim 3 0x20002183)
      ∧ after (lineStep .rx (.bnaReclaim 3 0x20002183) [] (stopAtBoundary (rxOff (withNcr 0)))) (fun _ => true) = true := by
  refine ⟨⟨⟨?_, ?_⟩, ?_, ?_⟩, by decide, by decide, by decide +kernel, ?_, ?_, ?_, ⟨by decide, by decide⟩, by decide⟩
  · show ∀ i, i < 2 → _; decide
  · show ∀ i, i < 4 → _; decide
  · show ∀ i, i < 4 → _; decide
  · exact ⟨by decide, by decide, ⟨0, by decide⟩, ⟨3, by decide⟩, by decide⟩
  · exact ⟨by decide, by decide, by decide⟩
  · show BitVec.getLsbD _ 30 = decide _; decide
  · show BitVec.getLsbD _ 1 = decide _; decide

/-! ### Fair runs: one step of an agent, after which only the PHY moves -/

/-- `s`, and then `t` for ever. -/
def quietRun (s t : State) : Nat → State
  | 0 => s
  | n + 1 => { t with drawCount := t.drawCount + n, draws := Draws.initial }

/-- Such a run is fair when no fair agent has a step in `t`. -/
theorem quietRun_fair {s t : State} (h : Follows s { t with draws := Draws.initial }) (hc : configOk t.cfg = true)
    (hq : ∀ g ∈ fairAgents, agentEnabled g t = false) : FairRun (quietRun s t) := by
  refine ⟨fun n => ?_, fun g hg n hn => ?_⟩
  · cases n with
    | zero => exact h
    | succ n =>
      refine ⟨_, step_eq_next.2 ⟨hc, _, rfl, rfl⟩, ?_⟩
      simp [quietRun, endStep, noteIrq, redraw, Nat.add_assoc]
  · have e : agentEnabled g (quietRun s t (n + 1)) = agentEnabled g t := by
      simp only [fairAgents, List.mem_cons, List.not_mem_nil, or_false] at hg
      rcases hg with rfl | rfl | rfl | rfl | rfl <;> rfl
    rw [hn (n + 1) (by omega), hq g hg] at e
    cases e

/-- A posted write that `BUS` performs. -/
def posted : State := { State.reset with pw := [(.ier, 0x82)], draws := { Draws.initial with agent := .bus } }

/-- That write performed. -/
def performed : State := { posted with pw := [], regs := { Regs.reset with imask := 0xC7D }, drawCount := 1 }

theorem witness_FairRunsMakeProgress_bus :
    ∃ r, FairRun r ∧ (r 0).pw ≠ [] := by
  refine ⟨_, quietRun_fair (s := posted) (t := performed) ⟨_, step_eq_next.2 ⟨by decide, _, rfl, rfl⟩, rfl⟩ (by decide)
    (by decide), by decide⟩

/-- A management frame in its last period. -/
def lastPeriod : State := { busy 0x509201E1 63 with draws := { Draws.initial with agent := .mdio } }

theorem witness_FairRunsMakeProgress_mdio :
    ∃ r, FairRun r ∧ (r 0).mdio.busy = true := by
  refine ⟨_, quietRun_fair (s := lastPeriod)
    (t := { mdioWriteDone { phya := 1, rega := 4, data := 0x01E1 } lastPeriod with drawCount := 1 })
    ⟨_, step_eq_next.2 ⟨by decide, _, rfl, rfl⟩, rfl⟩ (by decide) (by decide), by decide⟩

/-- An idle context has no callers. -/
theorem callersOutside_idle : CallersOutside Context.idle := fun _ h => absurd h List.not_mem_nil

/-- The premises of the invariants' statements: a state in the middle of a frame meets them, and its step answers. -/
theorem witness_StepKeepsTheInvariants :
    HardwareOk (rxState 300 128 0x20000108 0x20002080) ∧ CriticalExclusive (rxState 300 128 0x20000108 0x20002080)
      ∧ MemoryCanonical (rxState 300 128 0x20000108 0x20002080)
      ∧ after (step (rxState 300 128 0x20000108 0x20002080)) (fun _ => true) = true := by
  refine ⟨⟨?_, ?_, ?_, ?_, ?_⟩, ?_, ?_, by decide +kernel⟩
  · exact ⟨by decide, by decide, by decide, by decide⟩
  · refine ⟨?_, ?_, ?_, ?_, ?_, ?_, ?_, ?_⟩ <;> decide
  · exact ⟨by decide, by decide, by decide⟩
  · exact ⟨by decide +kernel, by decide +kernel, by decide, by decide⟩
  · exact ⟨by decide, by decide⟩
  · exact ⟨by decide, by decide, callersOutside_idle, callersOutside_idle⟩
  · exact ⟨by decide, by decide⟩

/-- Inside a critical section, with a caller below it. -/
theorem witness_StepKeepsCriticalSectionsExclusive :
    CriticalExclusive { State.reset with hostRx := { stack := [.bnaDisable 0x0C, .lengthAfterBna], ret := 0, data := [] } } :=
  ⟨by decide, by decide, callersOutside_idle, fun _ h => by cases h with
    | head => rfl
    | tail _ h => cases h⟩

end Sys2Proof.Tests
end

/-!
PROOFS. O60: no step changes the configuration, and each counts one draw (00_scope.md R83).
-/

namespace Sys2Proof.Machine

/-! ### No command changes the configuration or the draws -/

theorem writeNcr_sameEnvironment (v : Word) (s : State) : SameEnvironment s (writeNcr v s) := by
  unfold writeNcr
  extract_lets regs s1 s2 s3
  have h1 : SameEnvironment s s1 := ⟨rfl, rfl, rfl⟩
  have h2 : SameEnvironment s s2 := by
    dsimp only [s2]; split <;> exact h1
  have h3 : SameEnvironment s s3 := by
    dsimp only [s3]; split <;> exact h2
  split
  · simpa [SameEnvironment] using h3
  · exact h3

theorem afterFill_sameEnvironment (f : RxFields) (s : State) (g : RxFrame) (p : Word) :
    SameEnvironment s (afterFill f s g p) := by
  unfold afterFill
  split <;> exact ⟨rfl, rfl, rfl⟩

theorem mediumStep_sameEnvironment (s : State) : SameEnvironment s (mediumStep s) := by
  unfold mediumStep
  split
  · split <;> exact ⟨rfl, rfl, rfl⟩
  · exact ⟨rfl, rfl, rfl⟩

/-- A period of a management frame keeps the environment if the frame's completion does. -/
theorem mdioPeriod_sameEnvironment {s t k : State} (h : mdioPeriod s k = .next t) (hk : SameEnvironment s k) :
    SameEnvironment s t := by
  rcases mdioPeriod_eq_next.1 h with ⟨-, rfl⟩ | ⟨-, -, rfl⟩ | ⟨-, -, rfl⟩
  · exact ⟨rfl, rfl, rfl⟩
  · exact ⟨rfl, rfl, rfl⟩
  · exact hk

theorem exec_read_sameEnvironment {i : Instr} {s t : State} (hi : Instr.isRegRead i = true) (h : exec i s = .next t) :
    SameEnvironment s t := by
  obtain ⟨v, rfl | ⟨-, rfl⟩⟩ := exec_read_cases hi h
  all_goals exact ⟨rfl, rfl, rfl⟩

theorem exec_sameEnvironment {i : Instr} {s t : State} (h : exec i s = .next t) : SameEnvironment s t := by
  cases i with
  | rdNcr | rdNcfg | rdNsr | rdTsr | rdRbqp | rdTbqp | rdRsr | rdIsr | rdImr | rdMan | rdSa1b | rdSa1t | rdUsrio =>
    exact exec_read_sameEnvironment rfl h
  | wrTsr v | wrRsr v | wrIer v | wrIdr v | wrSa1t v | wrUsrio v =>
    obtain ⟨-, h⟩ := ifAccepted_eq_next.1 h
    cases h
    exact ⟨rfl, rfl, rfl⟩
  | wrSa1b v =>
    cases h
    exact ⟨rfl, rfl, rfl⟩
  | wrNcr v =>
    obtain ⟨-, h⟩ := ifAccepted_eq_next.1 h
    split at h
    · cases h
    · cases h
      exact writeNcr_sameEnvironment v s
  | wrNcfg v =>
    obtain ⟨-, h⟩ := ifAccepted_eq_next.1 h
    split at h
    · cases h
    · cases h
      exact ⟨rfl, rfl, rfl⟩
  | wrRbqp v | wrTbqp v =>
    obtain ⟨-, h⟩ := ifQueueAligned_eq_next.1 h
    split at h
    · cases h
    · cases h
      exact ⟨rfl, rfl, rfl⟩
  | wrMan v =>
    simp only [exec, execWrMan] at h
    split at h
    · cases h
    · split at h
      · cases h
        exact ⟨rfl, rfl, rfl⟩
      · split at h
        · cases h
          exact ⟨rfl, rfl, rfl⟩
        · cases h
  | txdStop last f =>
    rcases (execTxdStop_eq_next (last := last) (f := f)).1 h with ⟨-, rfl⟩ | ⟨-, -, rfl⟩ | ⟨-, fr, -, -, rfl⟩
    all_goals exact ⟨rfl, rfl, rfl⟩
  | txdBuf f =>
    rcases execTxdBuf_eq_next.1 h with ⟨-, rfl⟩ | ⟨-, -, p, -, rfl⟩
    all_goals exact ⟨rfl, rfl, rfl⟩
  | txdLast f =>
    rcases execTxdLast_eq_next.1 h with ⟨-, rfl⟩ | ⟨-, -, p, -, -, rfl⟩
    all_goals exact ⟨rfl, rfl, rfl⟩
  | rxdFree f =>
    rcases execRxdFree_eq_next.1 h with ⟨-, rfl⟩ | ⟨g, -, -, -, -, p, -, rfl⟩
    · exact ⟨rfl, rfl, rfl⟩
    · exact afterFill_sameEnvironment f s g p
  | rxdFull f =>
    rcases (execRxdFull_eq_next (f := f)).1 h with ⟨-, rfl⟩ | ⟨-, -, rfl⟩
    all_goals exact ⟨rfl, rfl, rfl⟩
  | mdioRead f | mdioWrite f => exact mdioPeriod_sameEnvironment h ⟨rfl, rfl, rfl⟩

/-! ### No agent does either -/

theorem hostEffect_sameEnvironment {s u : State} (h : HostEffect s u) : SameEnvironment s u := by
  rcases h with ⟨i, hi, h⟩ | ⟨r, w, rfl⟩ | ⟨a, bs, rfl⟩ | rfl | rfl | rfl
  · exact exec_read_sameEnvironment hi h
  all_goals exact ⟨rfl, rfl, rfl⟩

theorem putContext_sameEnvironment {s u : State} (id : ContextId) (stack : List Point) (n : Next)
    (h : SameEnvironment s u) : SameEnvironment s (putContext u id stack n) := by
  obtain ⟨hc, hd, hn⟩ := h
  exact ⟨by rw [putContext_cfg, hc], by rw [putContext_draws, hd], by rw [putContext_drawCount, hn]⟩

/-- An agent's own step leaves the configuration and the draws; only the end of a step redraws. -/
theorem agentStep_sameEnvironment {g : Agent} {s t : State} (h : agentStep g s = .next t) : SameEnvironment s t := by
  rcases agentStep_cases h with rfl | ⟨i, -, h⟩ | ⟨r, v, rest, i, -, -, h⟩ | rfl | ⟨-, rfl⟩ | ⟨id, u, stack, n, hu, rfl⟩ | rfl
  · exact ⟨rfl, rfl, rfl⟩
  · exact exec_sameEnvironment h
  · exact exec_sameEnvironment (s := { s with pw := rest }) h
  · exact mediumStep_sameEnvironment s
  · exact ⟨rfl, rfl, rfl⟩
  · exact putContext_sameEnvironment id stack n (hostEffect_sameEnvironment hu)
  · exact ⟨rfl, rfl, rfl⟩

/-- Settles O60: the agent's step keeps the configuration and the number of draws, and the end of the step adds one draw. -/
theorem stepKeepsTheConfiguration : Obligations.StepKeepsTheConfiguration := by
  intro s t h
  obtain ⟨hok, u, hu, rfl⟩ := step_eq_next.1 h
  obtain ⟨hcfg, -, hcount⟩ := agentStep_sameEnvironment hu
  exact ⟨by rw [endStep_cfg, hcfg], hok, by rw [endStep_drawCount, hcount]⟩

end Sys2Proof.Machine

/-!
PROOFS. O9: a step runs the command its agent fetches (00_scope.md R12).
-/

namespace Sys2Proof.Machine

/-! ### The bytes an agent fetches and the word the model decodes -/

theorem readBytes_eq_leBytes (m : Memory) (a : Word) : readBytes m a 4 = leBytes (readWord m a) := by
  rw [readWord, leBytes_leWord]
  simp [readBytes, List.range_succ]

/-- The decoder's answer, with the bytes that follow the command, is an instruction only if the command is one. -/
theorem eq_ok_of_map_eq_ok {d : Except DecodeError Instr} {i : Instr} {rest rest' : List Byte}
    (h : d.map (·, rest) = .ok (i, rest')) : d = .ok i := by
  cases d with
  | error e => cases h
  | ok j => cases h; rfl

theorem decode_txdW1_leBytes (w : Word) : decode .txdW1 (leBytes w) = .ok (decodeTxd w, []) := by
  simp [decode, leBytes, leWord_bytes]

theorem decode_rxdW0_leBytes (w : Word) : decode .rxdW0 (leBytes w) = .ok (decodeRxd w, []) := by
  simp [decode, leBytes, leWord_bytes]

theorem decode_man32_leBytes (w : Word) : decode .man32 (leBytes w) = (decodeMan w).map (·, []) := by
  simp [decode, leBytes, leWord_bytes]

/-! ### The step of each fetching agent -/

theorem andThen_andThen {α β γ : Type} (o : Result α) (k : α → Result β) (l : β → Result γ) :
    andThen (andThen o k) l = andThen o fun a => andThen (k a) l := by
  cases o <;> rfl

theorem step_of_configOk {s : State} {g : Agent} (hc : configOk s.cfg = true) (hg : s.draws.agent = g) :
    step s = andThen (agentStep g s) fun t => .next (endStep s t) := by
  rw [step, if_pos hc, hg]

theorem txeStep_of_active {s : State} (ha : s.tx.state = .active) (hp : s.tx.ptr &&& 0x7 = 0)
    (hm : admitsRange s.cfg (s.tx.ptr + 4) 4 = true) :
    txeStep s = exec (decodeTxd (readWord s.mem (s.tx.ptr + 4))) s := by
  rw [txeStep, if_pos ha, txFetch, if_pos (Bool.and_eq_true_iff.2 ⟨beq_iff_eq.2 hp, hm⟩), andThen_next]

theorem rxeStep_of_receiving {s : State} (he : rxEnabled s = true) (hr : s.rx.state ≠ .idle) (hp : s.rx.ptr &&& 0x7 = 0)
    (hm : admitsRange s.cfg s.rx.ptr 4 = true) :
    rxeStep s = exec (decodeRxd (readWord s.mem s.rx.ptr)) s := by
  rw [rxeStep, if_pos (Bool.and_eq_true_iff.2 ⟨he, bne_iff_ne.2 hr⟩), rxFetch,
    if_pos (Bool.and_eq_true_iff.2 ⟨beq_iff_eq.2 hp, hm⟩), andThen_next]

theorem mdioStep_of_busy {s : State} {i : Instr} (hb : s.mdio.busy = true) (hi : decodeMan s.mdio.word = .ok i) :
    mdioStep s = exec i s := by
  rw [mdioStep, if_pos hb, hi, runDecoded]

theorem busStep_of_head {s : State} {r : Reg} {v : Word} {rest : List (Reg × Word)} {i : Instr}
    (hp : s.pw = (r, v) :: rest) (hi : decodeBus (busCommand true r) v = .ok i) :
    busStep s = exec i { s with pw := rest } := by
  simp only [busStep, hp, hi, runDecoded]

/-! ### A host context's register read -/

theorem agentStep_agentOf (id : ContextId) (s : State) : agentStep (agentOf id) s = hostStep id s := by
  cases id <;> rfl

theorem hostStep_of_line {id : ContextId} {s : State} {p : Point} {rest : List Point}
    (hid : id = .isr ∨ isIdle s.hostIsr = true) (hs : (contextOf s id).stack = p :: rest)
    (hc : (entersCritical p && otherInCritical s id) = false) : hostStep id s = lineStep id p rest s := by
  have hrun : (id != .isr && !isIdle s.hostIsr) = false := by
    rcases hid with rfl | h
    · rfl
    · rw [h]; exact Bool.and_false _
  simp [hostStep, hrun, hs, hc]

/-- A read that is issued while no write is posted is performed at once (41_host_registers.md R251). -/
theorem hostRegRead_of_pw_nil {cmd : BusCommand} {s : State} {i : Instr} (hi : decodeBus cmd 0 = .ok i)
    (hp : s.pw = []) :
    hostRegRead cmd s = andThen (exec i s) fun t => .next (some (t, ⟨t.rdata, leBytes t.rdata⟩)) := by
  simp only [hostRegRead, hi, hp, List.isEmpty_nil, if_pos]

/-- An aligned word load in the register window is a register read (R150, R250). -/
theorem perform_windowLoad {s : State} {a : Word} (ha : a &&& 0x3 = 0) (hw : touches a 4 s.cfg.emacBase 256 = true) :
    perform (.bus (.load a 4)) s = hostRegRead (commandAt s.cfg false a) s := by
  have hword : isWordAccess a 4 = true := Bool.and_eq_true_iff.2 ⟨rfl, beq_iff_eq.2 ha⟩
  simp only [perform, hostBus, windowSize, hw, hword, if_pos]

theorem lineStep_of_regRead {id : ContextId} {p : Point} {rest : List Point} {s : State} {cmd : BusCommand} {i : Instr}
    (hop : perform (opOf s.cfg s.sw s.draws p) s = hostRegRead cmd s) (hi : decodeBus cmd 0 = .ok i) (hp : s.pw = []) :
    lineStep id p rest s = andThen (exec i s) fun t =>
      .next (putContext t id rest (nextOf s.cfg s.sw s.draws (contextOf s id) ⟨t.rdata, leBytes t.rdata⟩ p)) := by
  rw [lineStep, hop, hostRegRead_of_pw_nil hi hp, andThen_andThen]
  rfl

/-- Settles O9: for each agent, the fetched bytes hold the word the agent's step decodes. -/
theorem stepRunsTheDecodedCommand : Obligations.StepRunsTheDecodedCommand := by
  intro s i hc
  refine ⟨?txe, ?rxe, ?mdio, ?bus, ?host⟩
  case txe =>
    intro hg ha hp hm hd
    rw [readBytes_eq_leBytes, decode_txdW1_leBytes] at hd
    cases hd
    rw [step_of_configOk hc hg, agentStep, txeStep_of_active ha hp hm]
  case rxe =>
    intro hg he hr hp hm hd
    rw [readBytes_eq_leBytes, decode_rxdW0_leBytes] at hd
    cases hd
    rw [step_of_configOk hc hg, agentStep, rxeStep_of_receiving he hr hp hm]
  case mdio =>
    intro hg hb hd
    rw [decode_man32_leBytes] at hd
    rw [step_of_configOk hc hg, agentStep, mdioStep_of_busy hb (eq_ok_of_map_eq_ok hd)]
  case bus =>
    intro hg r v rest hp hd
    have hi := decode_bus_write (busCommand true r) v [] (busCommand_write true r)
    rw [List.append_nil, hd] at hi
    rw [step_of_configOk hc hg, agentStep, busStep_of_head hp (eq_ok_of_map_eq_ok hi.symm)]
  case host =>
    intro id p rest hg hid hp hs hcrit cmd hcmd hd
    have hop : cmd.getLsbD 8 = false ∧ perform (opOf s.cfg s.sw s.draws p) s = hostRegRead cmd s := by
      rcases hcmd with ⟨r, hr, rfl⟩ | ⟨a, ho, ha, hw, rfl⟩
      · exact ⟨busCommand_write false r, by rw [hr, perform]⟩
      · exact ⟨commandAt_write s.cfg false a, by rw [ho, perform_windowLoad ha hw]⟩
    obtain ⟨hread, hop⟩ := hop
    have hi := decode_bus_read cmd [] hread
    rw [List.append_nil, hd] at hi
    rw [step_of_configOk hc hg, agentStep_agentOf, hostStep_of_line hid hs hcrit,
      lineStep_of_regRead hop (eq_ok_of_map_eq_ok hi.symm) hp, andThen_andThen]
    rfl

end Sys2Proof.Machine

/-!
PROOFS. O58: every step keeps the hardware's invariants (10_state.md R51 to R74).
-/

namespace Sys2Proof.Machine

/-! ### `WR NCR` as one update of the state -/

/-- The TX engine after a performed `WR NCR` (41_host_registers.md R255 steps 5 and 6): off if `TE` falls, started by
`TSTART` if it is enabled and `IDLE`. -/
def ncrTx (v : Word) (s : State) : TxEngine :=
  if txEnabled s && !v.getLsbD 3 then { s.tx with state := .idle, frame := none, ptr := s.tx.base }
  else if v.getLsbD 9 && v.getLsbD 3 && s.tx.state = .idle then { s.tx with state := .active, frame := none }
  else s.tx

/-- The RX engine after a performed `WR NCR` (R255 step 4): off if `RE` falls. -/
def ncrRx (v : Word) (s : State) : RxEngine :=
  if rxEnabled s && !v.getLsbD 2 then { s.rx with state := .idle } else s.rx

/-- The mask of a stored `NCR` keeps the three enables. -/
theorem getLsbD_and_ncrMask (v : Word) :
    (v &&& 0x1C).getLsbD 2 = v.getLsbD 2 ∧ (v &&& 0x1C).getLsbD 3 = v.getLsbD 3
      ∧ (v &&& 0x1C).getLsbD 4 = v.getLsbD 4 := by
  simp only [BitVec.getLsbD_and]
  exact ⟨Bool.and_true _, Bool.and_true _, Bool.and_true _⟩

/-- The last step of a `WR NCR` (R301): `TSTART` starts an engine that `TE` enables and that is `IDLE`. -/
theorem ncrStart_eq {v : Word} {u : State} (hu : u.regs.ncr = v &&& 0x1C) :
    (if v.getLsbD 9 then txStart u else u) = { u with
      tx := if v.getLsbD 9 && v.getLsbD 3 && u.tx.state = .idle then { u.tx with state := .active, frame := none }
        else u.tx } := by
  obtain ⟨-, hte, -⟩ := getLsbD_and_ncrMask v
  unfold txStart
  rw [txEnabled, hu, hte]
  cases v.getLsbD 9
  · rfl
  · simp only [if_true, Bool.true_and]
    split <;> rfl

theorem writeNcr_eq (v : Word) (s : State) :
    writeNcr v s = { s with regs := { s.regs with ncr := v &&& 0x1C }, tx := ncrTx v s, rx := ncrRx v s } := by
  unfold writeNcr
  extract_lets regs s1 s2 s3
  have h2 : s2 = { s1 with rx := ncrRx v s } := by
    unfold ncrRx; dsimp only [s2]; split <;> rfl
  have h3 : s3 = { s2 with tx := if txEnabled s && !v.getLsbD 3 then (txOff s).tx else s.tx } := by
    rw [h2]; dsimp only [s3]; split <;> simp only [h2] <;> rfl
  rw [ncrStart_eq (by rw [h3, h2]), h3, h2]
  unfold ncrTx
  cases hv : v.getLsbD 3 <;> cases txEnabled s <;> simp [s1, regs]

/-- A `WR NCR` moves no queue base. -/
@[simp] theorem ncrTx_base (v : Word) (s : State) : (ncrTx v s).base = s.tx.base := by
  unfold ncrTx
  split
  · rfl
  · split <;> rfl

/-- A `WR NCR` leaves the TX pointer, or sends it back to the base (R302). -/
theorem ncrTx_ptr (v : Word) (s : State) : (ncrTx v s).ptr = s.tx.ptr ∨ (ncrTx v s).ptr = s.tx.base := by
  unfold ncrTx
  split
  · exact .inr rfl
  · split <;> exact .inl rfl

@[simp] theorem ncrRx_base (v : Word) (s : State) : (ncrRx v s).base = s.rx.base := by
  unfold ncrRx; split <;> rfl

/-- A `WR NCR` leaves the RX pointer (43_rx_engine.md R362). -/
@[simp] theorem ncrRx_ptr (v : Word) (s : State) : (ncrRx v s).ptr = s.rx.ptr := by
  unfold ncrRx; split <;> rfl

/-! ### Reserved bits -/

theorem or_and_eq_zero {x y m : Word} (hx : x &&& m = 0) (hy : y &&& m = 0) : (x ||| y) &&& m = 0 := by
  rw [and_eq_zero_iff] at *
  intro k hk
  rw [BitVec.getLsbD_or, hx k hk, hy k hk]; rfl

theorem and_and_eq_zero {x m : Word} (y : Word) (hx : x &&& m = 0) : (x &&& y) &&& m = 0 := by
  rw [and_eq_zero_iff] at *
  intro k hk
  rw [BitVec.getLsbD_and, hx k hk]; rfl

/-- An accepted value sets none of the register's reserved bits (R64). -/
theorem reserved_eq_zero {r : Reg} {v m : Word} (h : Reg.accepts r v = true) (hm : r.writable = m) :
    v &&& ~~~m = 0 := by
  simpa [Reg.accepts, hm] using h

theorem aligned_of_queueAligned {v : Word} (h : queueAligned v = true) : v &&& 0x7 = 0 := by
  simpa [queueAligned] using h

/-- No transmit outcome sets a reserved bit of `TSR` or of `ISR` (42_tx_engine.md R311, R312). -/
theorem outcome_reserved_eq_zero (o : TxOutcome) : outcomeTsr o &&& ~~~0x77 = 0 ∧ outcomeIsr o &&& ~~~0x4FF = 0 := by
  cases o <;> exact ⟨rfl, rfl⟩

/-! ### What keeps the invariants: one lemma per kind of update -/

namespace HardwareOk

variable {s : State}

theorem setTsr (h : HardwareOk s) {m : Word} (hm : m &&& ~~~0x77 = 0) : HardwareOk (setTsr s m) := by
  obtain ⟨hp, ⟨hncr, hncfg, htsr, hrest⟩, he, hf, hmg⟩ := h
  exact ⟨hp, ⟨hncr, hncfg, or_and_eq_zero htsr hm, hrest⟩, he, hf, hmg⟩

theorem setRsr (h : HardwareOk s) {m : Word} (hm : m &&& ~~~0x7 = 0) : HardwareOk (setRsr s m) := by
  obtain ⟨hp, ⟨hncr, hncfg, htsr, hrsr, hrest⟩, he, hf, hmg⟩ := h
  exact ⟨hp, ⟨hncr, hncfg, htsr, or_and_eq_zero hrsr hm, hrest⟩, he, hf, hmg⟩

theorem raise (h : HardwareOk s) {m : Word} (hm : m &&& ~~~0x4FF = 0) : HardwareOk (raise s m) := by
  obtain ⟨hp, ⟨hncr, hncfg, htsr, hrsr, hisr, hrest⟩, he, hf, hmg⟩ := h
  exact ⟨hp, ⟨hncr, hncfg, htsr, hrsr, or_and_eq_zero hisr hm, hrest⟩, he, hf, hmg⟩

theorem finishFrame (h : HardwareOk s) (fr : TxFrame) (o : TxOutcome) : HardwareOk (finishFrame s fr o) :=
  (HardwareOk.setTsr (s := { s with mem := _ }) h (outcome_reserved_eq_zero o).1).raise (outcome_reserved_eq_zero o).2

/-- The TX engine may go anywhere aligned, `ACTIVE` only while enabled, `IDLE` only at a frame boundary (R70, R71). -/
theorem setTx (h : HardwareOk s) {x : TxEngine} (hb : x.base &&& 0x7 = 0) (hp : x.ptr &&& 0x7 = 0)
    (ha : x.state = .active → txEnabled s = true) (hi : x.state = .idle → x.frame = none) :
    HardwareOk { s with tx := x } := by
  obtain ⟨⟨-, -, hrb, hrp⟩, hr, ⟨-, -, hre⟩, hf, hmg⟩ := h
  exact ⟨⟨hb, hp, hrb, hrp⟩, hr, ⟨ha, hi, hre⟩, hf, hmg⟩

/-- The RX engine may stop, and move its pointers where they are aligned. -/
theorem setRxIdle (h : HardwareOk s) {x : RxEngine} (hb : x.base &&& 0x7 = 0) (hp : x.ptr &&& 0x7 = 0)
    (hi : x.state = .idle) : HardwareOk { s with rx := x } := by
  obtain ⟨⟨htb, htp, -, -⟩, hr, ⟨hta, hti, -⟩, -, hmg⟩ := h
  refine ⟨⟨htb, htp, hb, hp⟩, hr, ⟨hta, hti, fun hn => absurd hi hn⟩, ?_, hmg⟩
  simp only [ReceiveFrameOk, hi]

/-- The RX engine may store on a frame that has bytes left, at a multiple of the buffer's size, while it is enabled (R72). -/
theorem setRxFrame (h : HardwareOk s) {x : RxEngine} {g : RxFrame} (hb : x.base &&& 0x7 = 0) (hp : x.ptr &&& 0x7 = 0)
    (hx : x.state = .frame g) (he : rxEnabled s = true) (hpos : g.pos < g.bytes.length)
    (hlen : g.bytes.length ≤ s.cfg.rxMaxFrame) (hfirst : g.first = true ↔ g.pos = 0) (hmod : g.pos % 128 = 0) :
    HardwareOk { s with rx := x } := by
  obtain ⟨⟨htb, htp, -, -⟩, hr, ⟨hta, hti, -⟩, -, hmg⟩ := h
  refine ⟨⟨htb, htp, hb, hp⟩, hr, ⟨hta, hti, fun _ => he⟩, ?_, hmg⟩
  simpa only [ReceiveFrameOk, hx] using ⟨hpos, hlen, hfirst, hmod⟩

theorem setMdio (h : HardwareOk s) {x : MdioState} (hman : Word)
    (hb : x.busy = true → mgmtEnabled s = true ∧ manLegal x.word = true ∧ x.bit ≤ 63)
    (hi : x.busy = false → x.bit = 0) :
    HardwareOk { s with regs := { s.regs with man := hman }, mdio := x } := by
  obtain ⟨hp, hr, he, hf, -⟩ := h
  exact ⟨hp, hr, he, hf, hb, hi⟩

end HardwareOk

/-! ### The commands keep them -/

theorem writeNcr_hardwareOk {v : Word} {s : State} (h : HardwareOk s)
    (hm : ¬(mgmtEnabled s && !v.getLsbD 4 && s.mdio.busy) = true) : HardwareOk (writeNcr v s) := by
  obtain ⟨⟨htb, htp, hrb, hrp⟩, ⟨-, hrest⟩, ⟨hta, hti, hre⟩, hf, hbusy, hbit⟩ := h
  obtain ⟨hv2, hv3, hv4⟩ := getLsbD_and_ncrMask v
  have hreserved : v &&& 0x1C &&& ~~~0x1C = 0 := by rw [BitVec.and_assoc]; exact BitVec.and_zero
  rw [writeNcr_eq]
  refine ⟨⟨?txBase, ?txPtr, ?rxBase, ?rxPtr⟩, ⟨hreserved, hrest⟩, ⟨?active, ?boundary, ?receiving⟩, ?frame, ?busy, hbit⟩
  case txBase => exact ncrTx_base v s ▸ htb
  case txPtr =>
    dsimp only
    rcases ncrTx_ptr v s with hptr | hptr
    · rw [hptr, htp]
    · rw [hptr, htb]
  case rxBase => exact ncrRx_base v s ▸ hrb
  case rxPtr => exact ncrRx_ptr v s ▸ hrp
  case active =>
    intro hact
    change (v &&& 0x1C).getLsbD 3 = true
    rw [hv3]
    unfold ncrTx at hact
    split at hact
    · cases hact
    · next hoff =>
      split at hact
      · next hstart => simp only [Bool.and_eq_true] at hstart; exact hstart.1.2
      · rw [hta hact] at hoff; simpa using hoff
  case boundary =>
    unfold ncrTx
    split
    · exact fun _ => rfl
    · split
      · exact fun _ => rfl
      · exact hti
  case receiving =>
    intro hrun
    change (v &&& 0x1C).getLsbD 2 = true
    rw [hv2]
    unfold ncrRx at hrun
    split at hrun
    · exact absurd rfl hrun
    · next hoff => rw [hre hrun] at hoff; simpa using hoff
  case frame =>
    unfold ncrRx
    split
    · trivial
    · exact hf
  case busy =>
    intro hb
    obtain ⟨hmpe, hlegal⟩ := hbusy hb
    refine ⟨?_, hlegal⟩
    change (v &&& 0x1C).getLsbD 4 = true
    rw [hv4]
    change s.mdio.busy = true at hb
    rw [hmpe, hb] at hm
    simpa using hm

theorem afterLast_hardwareOk {s : State} {wrap : Bool} {o : TxOutcome} {p : Word} (h : HardwareOk s) (fr : TxFrame)
    (ha : s.tx.state = .active) (hp : pointerAfterLast s wrap o = some p) : HardwareOk (afterLast s fr o p) := by
  have hs := h
  obtain ⟨⟨htb, htp, -, -⟩, -, ⟨hta, -, -⟩, -, -⟩ := h
  exact (hs.finishFrame fr o).setTx htb (pointerAfterLast_aligned htb htp hp) (fun _ => hta ha) fun _ => rfl

theorem stopMidFrame_hardwareOk {s : State} (h : HardwareOk s) (fr : TxFrame) : HardwareOk (stopMidFrame s fr) := by
  have hs := h
  obtain ⟨⟨htb, htp, -, -⟩, -, -, -, -⟩ := h
  refine (hs.finishFrame fr .bex).setTx htb ?_ (fun hact => by cases hact) fun _ => rfl
  dsimp only
  split
  · exact htb
  · exact htp

theorem stopAtBoundary_hardwareOk {s : State} (h : HardwareOk s) (hf : s.tx.frame = none) :
    HardwareOk (stopAtBoundary s) := by
  have hs := h
  obtain ⟨⟨htb, htp, -, -⟩, -, -, -, -⟩ := h
  exact ((hs.setTx (x := { s.tx with state := .idle }) htb htp (fun hact => by cases hact) fun _ => hf).setTsr
    (m := tsrUbr) rfl).raise (m := isrTxubr) rfl

/-- A chunk that is not the last fills its buffer and leaves bytes for the next (43_rx_engine.md R355). -/
theorem chunk_of_not_last {g : RxFrame} (hpos : g.pos < g.bytes.length) (hl : ¬isLastChunk g = true) :
    chunkSize g = 128 ∧ g.pos + 128 < g.bytes.length := by
  rw [isLastChunk, decide_eq_true_iff] at hl
  simp only [chunkSize, rxBufSize] at hl ⊢
  omega

theorem afterFill_hardwareOk {f : RxFields} {s : State} {g : RxFrame} {p : Word} (h : HardwareOk s)
    (hg : s.rx.state = .frame g) (he : rxEnabled s = true) (hp : advance s.rx.base s.rx.ptr f.wrap = some p) :
    HardwareOk (afterFill f s g p) := by
  have hs := h
  obtain ⟨⟨-, -, hrb, hrp⟩, -, -, hf, -⟩ := h
  have hmem : HardwareOk { s with mem := fillBuffer f s g } := hs
  have hpa := advance_aligned hrb hrp hp
  simp only [ReceiveFrameOk, hg] at hf
  obtain ⟨hpos, hlen, -, hmod⟩ := hf
  unfold afterFill
  split
  · exact ((hmem.setRxIdle (x := { s.rx with state := .idle, ptr := p }) hrb hpa rfl).setRsr (m := rsrRec) rfl).raise
      (m := isrRcomp) rfl
  · next hl =>
    obtain ⟨hn, hleft⟩ := chunk_of_not_last hpos hl
    refine hmem.setRxFrame hrb hpa rfl he ?_ hlen ?_ ?_ <;> dsimp only <;> rw [hn]
    · exact hleft
    · simp
    · omega

theorem dropFrame_hardwareOk {s : State} (h : HardwareOk s) : HardwareOk (dropFrame s) := by
  have hs := h
  obtain ⟨⟨-, -, hrb, hrp⟩, -, -, -, -⟩ := h
  exact ((hs.setRxIdle (x := { s.rx with state := .idle }) hrb hrp rfl).setRsr (m := rsrBna) rfl).raise
    (m := isrRxubr) rfl

/-- The completion of a management frame leaves the controller idle (44_mdio.md R409). -/
theorem mdioDone_hardwareOk {s : State} (h : HardwareOk s) (v : Word) : HardwareOk (mdioDone s v) :=
  (h.setMdio v (fun hb => by cases hb) fun _ => rfl).raise rfl

theorem mdioPeriod_hardwareOk {s t k : State} (h : HardwareOk s) (hk : HardwareOk k) (ht : mdioPeriod s k = .next t) :
    HardwareOk t := by
  rcases mdioPeriod_eq_next.1 ht with ⟨-, rfl⟩ | ⟨hb, hlt, rfl⟩ | ⟨-, -, rfl⟩
  · exact h
  · obtain ⟨-, -, -, -, hbusy, -⟩ := id h
    obtain ⟨hmpe, hlegal, -⟩ := hbusy hb
    exact h.setMdio s.regs.man (fun _ => ⟨hmpe, hlegal, hlt⟩) fun hi => by rw [hb] at hi; cases hi
  · exact hk

theorem exec_read_hardwareOk {i : Instr} {s t : State} (hi : Instr.isRegRead i = true) (h : HardwareOk s)
    (ht : exec i s = .next t) : HardwareOk t := by
  obtain ⟨v, rfl | ⟨-, rfl⟩⟩ := exec_read_cases hi ht
  · exact h
  · obtain ⟨hp, ⟨hncr, hncfg, htsr, hrsr, -, hrest⟩, he, hf, hmg⟩ := h
    exact ⟨hp, ⟨hncr, hncfg, htsr, hrsr, BitVec.zero_and, hrest⟩, he, hf, hmg⟩

theorem exec_hardwareOk {i : Instr} {s t : State} (h : HardwareOk s) (ht : exec i s = .next t) : HardwareOk t := by
  have hs := h
  obtain ⟨⟨htb, htp, hrb, hrp⟩, ⟨hncr, hncfg, htsr, hrsr, hisr, himask, hsa1t, husrio⟩, he, hf, hm⟩ := h
  have hp : PointersAligned s := ⟨htb, htp, hrb, hrp⟩
  cases i with
  | rdNcr | rdNcfg | rdNsr | rdTsr | rdRbqp | rdTbqp | rdRsr | rdIsr | rdImr | rdMan | rdSa1b | rdSa1t | rdUsrio =>
    exact exec_read_hardwareOk rfl hs ht
  | wrNcr v =>
    obtain ⟨-, ht⟩ := ifAccepted_eq_next.1 ht
    split at ht
    · cases ht
    · next hz => cases ht; exact writeNcr_hardwareOk hs hz
  | wrNcfg v =>
    obtain ⟨ha, ht⟩ := ifAccepted_eq_next.1 ht
    split at ht
    · cases ht
    · cases ht
      exact ⟨hp, ⟨hncr, reserved_eq_zero ha rfl, htsr, hrsr, hisr, himask, hsa1t, husrio⟩, he, hf, hm⟩
  | wrTsr v =>
    obtain ⟨-, ht⟩ := ifAccepted_eq_next.1 ht
    cases ht
    exact ⟨hp, ⟨hncr, hncfg, and_and_eq_zero _ htsr, hrsr, hisr, himask, hsa1t, husrio⟩, he, hf, hm⟩
  | wrRsr v =>
    obtain ⟨-, ht⟩ := ifAccepted_eq_next.1 ht
    cases ht
    exact ⟨hp, ⟨hncr, hncfg, htsr, and_and_eq_zero _ hrsr, hisr, himask, hsa1t, husrio⟩, he, hf, hm⟩
  | wrRbqp v =>
    obtain ⟨hv, ht⟩ := ifQueueAligned_eq_next.1 ht
    split at ht
    · cases ht
    · next hrun =>
      cases ht
      have hv := aligned_of_queueAligned hv
      have hidle : s.rx.state = .idle := by simp_all
      exact hs.setRxIdle hv hv hidle
  | wrTbqp v =>
    obtain ⟨hv, ht⟩ := ifQueueAligned_eq_next.1 ht
    split at ht
    · cases ht
    · cases ht
      have hv := aligned_of_queueAligned hv
      exact hs.setTx hv hv he.1 he.2.1
  | wrIer v =>
    obtain ⟨-, ht⟩ := ifAccepted_eq_next.1 ht
    cases ht
    exact ⟨hp, ⟨hncr, hncfg, htsr, hrsr, hisr, and_and_eq_zero _ himask, hsa1t, husrio⟩, he, hf, hm⟩
  | wrIdr v =>
    obtain ⟨ha, ht⟩ := ifAccepted_eq_next.1 ht
    cases ht
    exact ⟨hp, ⟨hncr, hncfg, htsr, hrsr, hisr, or_and_eq_zero himask (reserved_eq_zero ha rfl), hsa1t, husrio⟩, he, hf, hm⟩
  | wrMan v =>
    simp only [exec, execWrMan] at ht
    split at ht
    · cases ht
    · split at ht
      · cases ht
        exact ⟨hp, ⟨hncr, hncfg, htsr, hrsr, hisr, himask, hsa1t, husrio⟩, he, hf, hm⟩
      · next hmpe =>
        split at ht
        · next hlegal =>
          cases ht
          exact hs.setMdio v (fun _ => ⟨by simpa using hmpe, hlegal, Nat.zero_le _⟩) fun _ => rfl
        · cases ht
  | wrSa1b v => cases ht; exact hs
  | wrSa1t v =>
    obtain ⟨ha, ht⟩ := ifAccepted_eq_next.1 ht
    cases ht
    exact ⟨hp, ⟨hncr, hncfg, htsr, hrsr, hisr, himask, reserved_eq_zero ha rfl, husrio⟩, he, hf, hm⟩
  | wrUsrio v =>
    obtain ⟨ha, ht⟩ := ifAccepted_eq_next.1 ht
    cases ht
    exact ⟨hp, ⟨hncr, hncfg, htsr, hrsr, hisr, himask, hsa1t, reserved_eq_zero ha rfl⟩, he, hf, hm⟩
  | txdStop last f =>
    rcases (execTxdStop_eq_next (last := last) (f := f)).1 ht with ⟨-, rfl⟩ | ⟨-, hn, rfl⟩ | ⟨-, fr, -, -, rfl⟩
    · exact hs
    · exact stopAtBoundary_hardwareOk hs hn
    · exact stopMidFrame_hardwareOk hs fr
  | txdBuf f =>
    rcases execTxdBuf_eq_next.1 ht with ⟨-, rfl⟩ | ⟨ha, -, p, hadv, rfl⟩
    · exact hs
    · exact hs.setTx htb (advance_aligned htb htp hadv) he.1 fun hi => by rw [ha] at hi; cases hi
  | txdLast f =>
    rcases execTxdLast_eq_next.1 ht with ⟨-, rfl⟩ | ⟨ha, -, p, hptr, -, rfl⟩
    · exact hs
    · exact afterLast_hardwareOk hs _ ha hptr
  | rxdFree f =>
    rcases execRxdFree_eq_next.1 ht with ⟨-, rfl⟩ | ⟨g, hg, hre, -, -, p, hadv, rfl⟩
    · exact hs
    · exact afterFill_hardwareOk hs hg hre hadv
  | rxdFull f =>
    rcases (execRxdFull_eq_next (f := f)).1 ht with ⟨-, rfl⟩ | ⟨-, -, rfl⟩
    · exact hs
    · exact dropFrame_hardwareOk hs
  | mdioRead f => exact mdioPeriod_hardwareOk (k := mdioReadDone f s) hs (mdioDone_hardwareOk hs _) ht
  | mdioWrite f => exact mdioPeriod_hardwareOk (k := mdioWriteDone f s) hs (mdioDone_hardwareOk hs _) ht

/-! ### The agents keep them -/

/-- The medium offers only a frame of at least one byte that is no longer than the configuration allows (R352). -/
theorem mediumStep_hardwareOk {s : State} (h : HardwareOk s) : HardwareOk (mediumStep s) := by
  unfold mediumStep
  split
  · next hoff =>
    obtain ⟨he, hlen⟩ := Bool.and_eq_true_iff.1 hoff
    simp only [frameOffered, Bool.and_eq_true, decide_eq_true_eq] at hlen
    split
    · obtain ⟨⟨-, -, hrb, hrp⟩, -, -, -, -⟩ := id h
      exact h.setRxFrame hrb hrp rfl he hlen.1 hlen.2 (by simp) rfl
    · exact (h.setRsr (m := rsrOvr) rfl).raise (m := isrRovr) rfl
  · exact h

theorem hostEffect_hardwareOk {s u : State} (h : HardwareOk s) (hu : HostEffect s u) : HardwareOk u := by
  rcases hu with ⟨i, hi, hu⟩ | ⟨r, w, rfl⟩ | ⟨a, bs, rfl⟩ | rfl | rfl | rfl
  · exact exec_read_hardwareOk hi h hu
  all_goals exact h

/-- The invariants speak of the registers, the engines and the configuration only. -/
theorem hardwareOk_congr {s t : State} (hc : t.cfg = s.cfg) (hr : t.regs = s.regs) (htx : t.tx = s.tx)
    (hrx : t.rx = s.rx) (hm : t.mdio = s.mdio) (h : HardwareOk s) : HardwareOk t := by
  simpa only [HardwareOk, PointersAligned, ReservedBitsZero, EnginesGated, ReceiveFrameOk, ManagementOk, txEnabled,
    rxEnabled, mgmtEnabled, hc, hr, htx, hrx, hm] using h

/-- The two registers that are not 0 after a reset have their reserved bits 0. -/
theorem regsReset_reserved : Regs.reset.ncfg &&& ~~~0xC03 = 0 ∧ Regs.reset.imask &&& ~~~0xCFF = 0 := by decide

theorem platformReset_hardwareOk (s : State) : HardwareOk (platformReset s) := by
  obtain ⟨hncfg, himask⟩ := regsReset_reserved
  refine ⟨?aligned, ?reserved, ⟨?active, fun _ => rfl, ?receiving⟩, trivial, ?busy, fun _ => rfl⟩
  case aligned => exact ⟨BitVec.zero_and, BitVec.zero_and, BitVec.zero_and, BitVec.zero_and⟩
  case reserved =>
    exact ⟨BitVec.zero_and, hncfg, BitVec.zero_and, BitVec.zero_and, BitVec.zero_and, himask, BitVec.zero_and,
      BitVec.zero_and⟩
  case active => intro ha; cases ha
  case receiving => intro hn; exact absurd rfl hn
  case busy => intro hb; cases hb

theorem agentStep_hardwareOk {g : Agent} {s t : State} (h : HardwareOk s) (ht : agentStep g s = .next t) :
    HardwareOk t := by
  rcases agentStep_cases ht with rfl | ⟨i, -, hi⟩ | ⟨r, v, rest, i, -, -, hi⟩ | rfl | ⟨-, rfl⟩ | ⟨id, u, stack, n, hu, rfl⟩
    | rfl
  · exact h
  · exact exec_hardwareOk h hi
  · exact exec_hardwareOk (s := { s with pw := rest }) h hi
  · exact mediumStep_hardwareOk h
  · exact h
  · exact hardwareOk_congr (putContext_cfg ..) (putContext_regs ..) (putContext_tx ..) (putContext_rx ..)
      (putContext_mdio ..) (hostEffect_hardwareOk h hu)
  · exact platformReset_hardwareOk s

/-- Settles O58: the agent's step keeps the invariants, and the end of the step changes nothing they speak of. -/
theorem stepKeepsTheHardwareOk : Obligations.StepKeepsTheHardwareOk := by
  intro s t h ht
  obtain ⟨-, u, hu, rfl⟩ := step_eq_next.1 ht
  exact hardwareOk_congr (endStep_cfg ..) (endStep_regs ..) (endStep_tx ..) (endStep_rx ..) (endStep_mdio ..)
    (agentStep_hardwareOk h hu)

end Sys2Proof.Machine

/-!
PROOFS. O42: no command clears a status bit but the one the spec names for it (10_state.md R54, R57, R58).
-/

namespace Sys2Proof.Machine

/-- Every set bit of the old value is set in the new one. -/
def BitsKept (old new : Word) : Prop := ∀ k, old.getLsbD k = true → new.getLsbD k = true

theorem bitsKept_refl (x : Word) : BitsKept x x := fun _ h => h

theorem bitsKept_or (x m : Word) : BitsKept x (x ||| m) := fun k h => by
  rw [BitVec.getLsbD_or, h, Bool.true_or]

/-- The three status registers keep their set bits. -/
def StatusKept (r r' : Regs) : Prop := BitsKept r.tsr r'.tsr ∧ BitsKept r.rsr r'.rsr ∧ BitsKept r.isr r'.isr

theorem statusKept_refl (r : Regs) : StatusKept r r := ⟨bitsKept_refl _, bitsKept_refl _, bitsKept_refl _⟩

theorem writeNcr_statusKept (v : Word) (s : State) : StatusKept s.regs (writeNcr v s).regs := by
  rw [writeNcr_eq]
  exact statusKept_refl s.regs

theorem afterFill_statusKept (f : RxFields) (s : State) (g : RxFrame) (p : Word) :
    StatusKept s.regs (afterFill f s g p).regs := by
  unfold afterFill
  split
  · exact ⟨bitsKept_refl _, bitsKept_or _ _, bitsKept_or _ _⟩
  · exact statusKept_refl _

theorem mdioPeriod_statusKept {s t k : State} (h : mdioPeriod s k = .next t) (hk : StatusKept s.regs k.regs) :
    StatusKept s.regs t.regs := by
  rcases mdioPeriod_eq_next.1 h with ⟨-, rfl⟩ | ⟨-, -, rfl⟩ | ⟨-, -, rfl⟩
  · exact statusKept_refl _
  · exact statusKept_refl _
  · exact hk

theorem mdioDone_statusKept (s : State) (v : Word) : StatusKept s.regs (mdioDone s v).regs :=
  ⟨bitsKept_refl _, bitsKept_refl _, bitsKept_or _ _⟩

/-- Every command but the three that clear status bits keeps all of them. -/
theorem exec_statusKept {i : Instr} {s t : State} (h : exec i s = .next t) (htsr : ∀ v, i ≠ .wrTsr v)
    (hrsr : ∀ v, i ≠ .wrRsr v) (hisr : i ≠ .rdIsr) : StatusKept s.regs t.regs := by
  cases i with
  | rdNcr | rdNcfg | rdNsr | rdTsr | rdRbqp | rdTbqp | rdRsr | rdImr | rdMan | rdSa1b | rdSa1t | rdUsrio =>
    cases h
    exact statusKept_refl _
  | rdIsr => exact absurd rfl hisr
  | wrTsr v => exact absurd rfl (htsr v)
  | wrRsr v => exact absurd rfl (hrsr v)
  | wrNcr v =>
    obtain ⟨-, h⟩ := ifAccepted_eq_next.1 h
    split at h
    · cases h
    · cases h
      exact writeNcr_statusKept v s
  | wrNcfg v =>
    obtain ⟨-, h⟩ := ifAccepted_eq_next.1 h
    split at h
    · cases h
    · cases h
      exact statusKept_refl _
  | wrIer v | wrIdr v | wrSa1t v | wrUsrio v =>
    obtain ⟨-, h⟩ := ifAccepted_eq_next.1 h
    cases h
    exact statusKept_refl _
  | wrSa1b v =>
    cases h
    exact statusKept_refl _
  | wrRbqp v | wrTbqp v =>
    obtain ⟨-, h⟩ := ifQueueAligned_eq_next.1 h
    split at h
    · cases h
    · cases h
      exact statusKept_refl _
  | wrMan v =>
    simp only [exec, execWrMan] at h
    split at h
    · cases h
    · split at h
      · cases h
        exact statusKept_refl _
      · split at h
        · cases h
          exact statusKept_refl _
        · cases h
  | txdStop last f =>
    rcases (execTxdStop_eq_next (last := last) (f := f)).1 h with ⟨-, rfl⟩ | ⟨-, -, rfl⟩ | ⟨-, fr, -, -, rfl⟩
    · exact statusKept_refl _
    · exact ⟨bitsKept_or _ _, bitsKept_refl _, bitsKept_or _ _⟩
    · exact ⟨bitsKept_or _ _, bitsKept_refl _, bitsKept_or _ _⟩
  | txdBuf f =>
    rcases execTxdBuf_eq_next.1 h with ⟨-, rfl⟩ | ⟨-, -, p, -, rfl⟩
    all_goals exact statusKept_refl _
  | txdLast f =>
    rcases execTxdLast_eq_next.1 h with ⟨-, rfl⟩ | ⟨-, -, p, -, -, rfl⟩
    · exact statusKept_refl _
    · exact ⟨bitsKept_or _ _, bitsKept_refl _, bitsKept_or _ _⟩
  | rxdFree f =>
    rcases execRxdFree_eq_next.1 h with ⟨-, rfl⟩ | ⟨g, -, -, -, -, p, -, rfl⟩
    · exact statusKept_refl _
    · exact afterFill_statusKept f s g p
  | rxdFull f =>
    rcases (execRxdFull_eq_next (f := f)).1 h with ⟨-, rfl⟩ | ⟨-, -, rfl⟩
    · exact statusKept_refl _
    · exact ⟨bitsKept_refl _, bitsKept_or _ _, bitsKept_or _ _⟩
  | mdioRead f => exact mdioPeriod_statusKept (k := mdioReadDone f s) h (mdioDone_statusKept s _)
  | mdioWrite f => exact mdioPeriod_statusKept (k := mdioWriteDone f s) h (mdioDone_statusKept s _)

/-- Settles O42: `WR TSR`, `WR RSR` and `RD ISR` each clear bits of their own register only, and no other command clears
any. -/
theorem statusBitsAreSticky : Obligations.StatusBitsAreSticky := by
  intro i s t h
  by_cases htsr : ∃ v, i = .wrTsr v
  · obtain ⟨v, rfl⟩ := htsr
    obtain ⟨-, h⟩ := ifAccepted_eq_next.1 h
    cases h
    exact ⟨fun hne => absurd rfl (hne v), fun _ => bitsKept_refl _, fun _ => bitsKept_refl _⟩
  by_cases hrsr : ∃ v, i = .wrRsr v
  · obtain ⟨v, rfl⟩ := hrsr
    obtain ⟨-, h⟩ := ifAccepted_eq_next.1 h
    cases h
    exact ⟨fun _ => bitsKept_refl _, fun hne => absurd rfl (hne v), fun _ => bitsKept_refl _⟩
  by_cases hisr : i = .rdIsr
  · subst hisr
    cases h
    exact ⟨fun _ => bitsKept_refl _, fun _ => bitsKept_refl _, fun hne => absurd rfl hne⟩
  · obtain ⟨kt, kr, ki⟩ := exec_statusKept h (not_exists.1 htsr) (not_exists.1 hrsr) hisr
    exact ⟨fun _ => kt, fun _ => kr, fun _ => ki⟩

end Sys2Proof.Machine

/-!
PROOFS. O43: no command but its own read and write depends on `USRIO` (10_state.md R63, 41_host_registers.md R278).
-/

namespace Sys2Proof.Machine

/-- The state with another value in `USRIO`. -/
def withUsrio (u : Word) (s : State) : State := { s with regs := { s.regs with usrio := u } }

@[simp] theorem withUsrio_cfg (u : Word) (s : State) : (withUsrio u s).cfg = s.cfg := rfl
@[simp] theorem withUsrio_tx (u : Word) (s : State) : (withUsrio u s).tx = s.tx := rfl
@[simp] theorem withUsrio_rx (u : Word) (s : State) : (withUsrio u s).rx = s.rx := rfl
@[simp] theorem withUsrio_draws (u : Word) (s : State) : (withUsrio u s).draws = s.draws := rfl
@[simp] theorem rxEnabled_withUsrio (u : Word) (s : State) : rxEnabled (withUsrio u s) = rxEnabled s := rfl
@[simp] theorem fullDuplex_withUsrio (u : Word) (s : State) : fullDuplex (withUsrio u s) = fullDuplex s := rfl
@[simp] theorem txData_withUsrio (u : Word) (f : TxFields) (s : State) : txData f (withUsrio u s) = txData f s := rfl
@[simp] theorem gather_withUsrio (u : Word) (s : State) (data : List Byte) :
    gather (withUsrio u s) data = gather s data := rfl
@[simp] theorem pointerAfterLast_withUsrio (u : Word) (s : State) (wrap : Bool) (o : TxOutcome) :
    pointerAfterLast (withUsrio u s) wrap o = pointerAfterLast s wrap o := rfl

/-! ### `mapNext` goes through the branches of an operation -/

theorem mapNext_ifAccepted (φ : State → State) (r : Reg) (v : Word) (k : Result State) :
    mapNext φ (ifAccepted r v k) = ifAccepted r v (mapNext φ k) := by
  unfold ifAccepted; split <;> rfl

theorem mapNext_ifQueueAligned (φ : State → State) (v : Word) (k : Result State) :
    mapNext φ (ifQueueAligned v k) = ifQueueAligned v (mapNext φ k) := by
  unfold ifQueueAligned; split <;> rfl

theorem mapNext_ite (φ : State → State) (c : Prop) [Decidable c] (a b : Result State) :
    mapNext φ (if c then a else b) = if c then mapNext φ a else mapNext φ b := by
  split <;> rfl

theorem mapNext_andThen {α : Type} (φ : State → State) (o : Result α) (k : α → Result State) :
    mapNext φ (andThen o k) = andThen o fun a => mapNext φ (k a) := by
  cases o <;> rfl

theorem whileActive_withUsrio {u : Word} {s : State} {k k' : Result State} (hk : k' = mapNext (withUsrio u) k) :
    whileActive (withUsrio u s) k' = mapNext (withUsrio u) (whileActive s k) := by
  unfold whileActive
  rw [mapNext_ite, hk]
  rfl

theorem whileReceiving_withUsrio {u : Word} {s : State} {k k' : RxFrame → Result State}
    (hk : ∀ g, k' g = mapNext (withUsrio u) (k g)) :
    whileReceiving (withUsrio u s) k' = mapNext (withUsrio u) (whileReceiving s k) := by
  unfold whileReceiving
  simp only [withUsrio_rx, rxEnabled_withUsrio]
  cases s.rx.state with
  | idle => rfl
  | frame g => dsimp only; rw [mapNext_ite, hk]; rfl

theorem mdioPeriod_withUsrio {u : Word} {s k k' : State} (hk : k' = withUsrio u k) :
    mdioPeriod (withUsrio u s) k' = mapNext (withUsrio u) (mdioPeriod s k) := by
  unfold mdioPeriod
  rw [mapNext_ite, mapNext_ite, hk]
  rfl

theorem writeNcr_withUsrio (u v : Word) (s : State) : writeNcr v (withUsrio u s) = withUsrio u (writeNcr v s) := by
  rw [writeNcr_eq, writeNcr_eq]
  rfl

theorem afterFill_withUsrio (u : Word) (f : RxFields) (s : State) (g : RxFrame) (p : Word) :
    afterFill f (withUsrio u s) g p = withUsrio u (afterFill f s g p) := by
  unfold afterFill
  split <;> rfl

/-! ### Each command -/

theorem exec_withUsrio {i : Instr} (s : State) (u : Word) (hr : i ≠ .rdUsrio) (hw : ∀ v, i ≠ .wrUsrio v) :
    exec i (withUsrio u s) = mapNext (withUsrio u) (exec i s) := by
  cases i with
  | rdNcr | rdNcfg | rdNsr | rdTsr | rdRbqp | rdTbqp | rdRsr | rdIsr | rdImr | rdMan | rdSa1b | rdSa1t => rfl
  | wrSa1b v => rfl
  | rdUsrio => exact absurd rfl hr
  | wrUsrio v => exact absurd rfl (hw v)
  | wrTsr v | wrRsr v | wrIer v | wrIdr v | wrSa1t v =>
    simp only [exec, execWrTsr, execWrRsr, execWrIer, execWrIdr, execWrSa1t]
    rw [mapNext_ifAccepted]
    rfl
  | wrNcr v =>
    simp only [exec, execWrNcr]
    rw [mapNext_ifAccepted, mapNext_ite, writeNcr_withUsrio]
    rfl
  | wrNcfg v =>
    simp only [exec, execWrNcfg]
    rw [mapNext_ifAccepted, mapNext_ite]
    rfl
  | wrRbqp v =>
    simp only [exec, execWrRbqp]
    rw [mapNext_ifQueueAligned, mapNext_ite]
    rfl
  | wrTbqp v =>
    simp only [exec, execWrTbqp]
    rw [mapNext_ifQueueAligned, mapNext_ite]
    rfl
  | wrMan v =>
    simp only [exec, execWrMan]
    rw [mapNext_ite, mapNext_ite, mapNext_ite]
    rfl
  | txdStop last f =>
    refine whileActive_withUsrio ?_
    simp only [withUsrio_tx, withUsrio_cfg]
    cases s.tx.frame with
    | none => rfl
    | some fr => dsimp only; rw [mapNext_ite]; rfl
  | txdBuf f =>
    refine whileActive_withUsrio ?_
    simp only [mapNext_andThen, txData_withUsrio, withUsrio_tx]
    congr 1
    funext data
    cases advance s.tx.base s.tx.ptr f.wrap <;> rfl
  | txdLast f =>
    refine whileActive_withUsrio ?_
    simp only [mapNext_andThen, mapNext_ite, txData_withUsrio, gather_withUsrio, fullDuplex_withUsrio,
      pointerAfterLast_withUsrio, withUsrio_cfg, withUsrio_draws]
    congr 1
    funext data
    cases pointerAfterLast s f.wrap (mediumOutcome (fullDuplex s) s.draws.outcome) <;> rfl
  | rxdFree f =>
    refine whileReceiving_withUsrio fun g => ?_
    simp only [mapNext_ite, withUsrio_cfg, withUsrio_rx]
    cases advance s.rx.base s.rx.ptr f.wrap with
    | none => rfl
    | some p => dsimp only; rw [afterFill_withUsrio]; rfl
  | rxdFull f => exact whileReceiving_withUsrio fun _ => rfl
  | mdioRead f => exact mdioPeriod_withUsrio (k := mdioReadDone f s) rfl
  | mdioWrite f => exact mdioPeriod_withUsrio (k := mdioWriteDone f s) rfl

/-- Settles O43: each other command does the same with another value in `USRIO`, and keeps that value. -/
theorem usrioInfluencesNothing : Obligations.UsrioInfluencesNothing :=
  fun _ s u hr hw => exec_withUsrio s u hr hw

end Sys2Proof.Machine

/-!
PROOFS. O55: the engines and the lines of the reference procedures keep the ring invariant (10_state.md R71, R80 to R82).
-/

namespace Sys2Proof.Machine

/-! ### Where the rings and the pools lie (00_scope.md R13, R15) -/

/-- What `configOk` says of the two rings and the two pools, over the naturals. -/
structure RingLayout (c : Config) : Prop where
  rxSome : 1 ≤ c.rxCount
  txSome : 1 ≤ c.txCount
  txBufSize_ge : 4 ≤ c.txBufSize
  txBufSize_le : c.txBufSize ≤ 2044
  rxAligned : c.rxDescBase.toNat % 8 = 0
  txAligned : c.txDescBase.toNat % 8 = 0
  rxPoolAligned : c.rxPool.toNat % 4 = 0
  rxEnd : c.rxDescBase.toNat + 8 * c.rxCount ≤ 4294967296
  txEnd : c.txDescBase.toNat + 8 * c.txCount ≤ 4294967296
  rxPoolEnd : c.rxPool.toNat + 128 * c.rxCount ≤ 4294967296
  txPoolEnd : c.txPool.toNat + c.txBufSize * c.txCount ≤ 4294967296
  rings : c.rxDescBase.toNat + 8 * c.rxCount ≤ c.txDescBase.toNat ∨ c.txDescBase.toNat + 8 * c.txCount ≤ c.rxDescBase.toNat
  rx_rxPool : c.rxDescBase.toNat + 8 * c.rxCount ≤ c.rxPool.toNat ∨ c.rxPool.toNat + 128 * c.rxCount ≤ c.rxDescBase.toNat
  rx_txPool : c.rxDescBase.toNat + 8 * c.rxCount ≤ c.txPool.toNat
    ∨ c.txPool.toNat + c.txBufSize * c.txCount ≤ c.rxDescBase.toNat
  tx_rxPool : c.txDescBase.toNat + 8 * c.txCount ≤ c.rxPool.toNat ∨ c.rxPool.toNat + 128 * c.rxCount ≤ c.txDescBase.toNat
  tx_txPool : c.txDescBase.toNat + 8 * c.txCount ≤ c.txPool.toNat
    ∨ c.txPool.toNat + c.txBufSize * c.txCount ≤ c.txDescBase.toNat

theorem and_seven_eq_zero_iff {a : Word} : a &&& 0x7 = 0 ↔ a.toNat % 8 = 0 := by
  rw [← BitVec.toNat_inj, BitVec.toNat_and]
  exact Eq.congr_left (Nat.and_two_pow_sub_one_eq_mod a.toNat 3)

theorem and_three_eq_zero_iff {a : Word} : a &&& 0x3 = 0 ↔ a.toNat % 4 = 0 := by
  rw [← BitVec.toNat_inj, BitVec.toNat_and]
  exact Eq.congr_left (Nat.and_two_pow_sub_one_eq_mod a.toNat 2)

theorem ringLayout_of_configOk {c : Config} (h : configOk c = true) : RingLayout c := by
  simp only [configOk, configChecks, ringRanges, allDisjoint, rangesDisjoint, List.all_cons, List.all_nil,
    Bool.and_eq_true, Bool.or_eq_true, decide_eq_true_eq, beq_iff_eq, and_seven_eq_zero_iff, and_three_eq_zero_iff] at h
  obtain ⟨h1, -, h3, -, h5, h6, -, -, -, -, -, -, hra, hta, hrp, -, ⟨-, ⟨d1, d2, d3, -⟩, ⟨d4, d5, -⟩, -⟩, ⟨e1, e2, e3, e4, -⟩, -⟩
    := h
  exact ⟨h1, h3, h5, h6, hra, hta, hrp, e1, e2, e3, e4, d1, d2, d3, d4, d5⟩

section Addresses

variable {c : Config} (hl : RingLayout c)
include hl

theorem toNat_descTx {i : Nat} (hi : i < c.txCount) : (descTx c i).toNat = c.txDescBase.toNat + 8 * i := by
  have := hl.txEnd
  rw [descTx, BitVec.toNat_add, BitVec.toNat_ofNat]
  omega

theorem toNat_descRx {i : Nat} (hi : i < c.rxCount) : (descRx c i).toNat = c.rxDescBase.toNat + 8 * i := by
  have := hl.rxEnd
  rw [descRx, BitVec.toNat_add, BitVec.toNat_ofNat]
  omega

theorem toNat_rxBufferAddr {i : Nat} (hi : i < c.rxCount) : (rxBufferAddr c i).toNat = c.rxPool.toNat + 128 * i := by
  have := hl.rxPoolEnd
  rw [rxBufferAddr, BitVec.toNat_add, BitVec.toNat_ofNat]
  omega

/-- A TX buffer lies in its pool. -/
theorem txBuffer_in_pool {i : Nat} (hi : i < c.txCount) : c.txPool.toNat ≤ (txBufferAddr c i).toNat
    ∧ (txBufferAddr c i).toNat + c.txBufSize ≤ c.txPool.toNat + c.txBufSize * c.txCount := by
  have hend := hl.txPoolEnd
  have hsize := hl.txBufSize_ge
  have hmul : c.txBufSize * i + c.txBufSize ≤ c.txBufSize * c.txCount := by
    rw [← Nat.mul_succ]; exact Nat.mul_le_mul_left _ hi
  rw [txBufferAddr, BitVec.toNat_add, BitVec.toNat_ofNat]
  omega

end Addresses

theorem toNat_add_four {a : Word} (h : a.toNat % 8 = 0) : (a + 4).toNat = a.toNat + 4 := by
  have hlt := a.isLt
  rw [BitVec.toNat_add, show (4 : Word).toNat = 4 from rfl]
  omega

/-! ### Writes that miss a word -/

/-- A word is as before where none of its bytes is among those written. -/
theorem readWord_writeBytes_of_disjoint (m : Memory) {a b : Word} {bs : List Byte}
    (ha : a.toNat + bs.length ≤ 4294967296) (hb : b.toNat + 4 ≤ 4294967296)
    (hd : a.toNat + bs.length ≤ b.toNat ∨ b.toNat + 4 ≤ a.toNat) : readWord (writeBytes m a bs) b = readWord m b := by
  refine readWord_congr fun x hx => readByte_writeBytes_of_not_inSpan m bs ?_
  simp only [inSpan, decide_eq_true_eq, decide_eq_false_iff_not, Nat.not_lt, BitVec.toNat_sub] at hx ⊢
  have hxlt := x.isLt
  omega

/-- Two different aligned words do not meet. -/
theorem readWord_writeWord_of_ne (m : Memory) {a b v : Word} (ha : a.toNat % 4 = 0) (hb : b.toNat % 4 = 0)
    (hne : b ≠ a) : readWord (writeWord m a v) b = readWord m b := by
  have hne : b.toNat ≠ a.toNat := fun e => hne (BitVec.eq_of_toNat_eq e)
  have halt := a.isLt
  have hblt := b.isLt
  have hlen := length_leBytes v
  apply readWord_writeBytes_of_disjoint m <;> omega

/-! ### What a word write does to the rings -/

section WordWrite

variable {s : State} {a v : Word} (hl : RingLayout s.cfg) (ha : a.toNat % 4 = 0)
include hl ha

theorem txRingWraps_writeWord (h : TxRingWraps s)
    (hv : ∀ j, j < s.cfg.txCount → descTx s.cfg j + 4 = a → v.getLsbD 30 = decide (j + 1 = s.cfg.txCount)) :
    TxRingWraps { s with mem := writeWord s.mem a v } := by
  intro j hj
  by_cases he : descTx s.cfg j + 4 = a
  · rw [← hv j hj he]
    dsimp only
    rw [he, readWord_writeWord_same]
  · have hal := hl.txAligned
    have hj8 := toNat_descTx hl hj
    have hj4 := toNat_add_four (a := descTx s.cfg j) (by omega)
    rw [← h j hj]
    dsimp only
    rw [readWord_writeWord_of_ne _ ha (by omega) he]

theorem rxRingWraps_writeWord (h : RxRingWraps s)
    (hv : ∀ j, j < s.cfg.rxCount → descRx s.cfg j = a → v.getLsbD 1 = decide (j + 1 = s.cfg.rxCount)) :
    RxRingWraps { s with mem := writeWord s.mem a v } := by
  intro j hj
  by_cases he : descRx s.cfg j = a
  · rw [← hv j hj he]
    dsimp only
    rw [he, readWord_writeWord_same]
  · have hal := hl.rxAligned
    have hj8 := toNat_descRx hl hj
    rw [← h j hj]
    dsimp only
    rw [readWord_writeWord_of_ne _ ha (by omega) he]

theorem rxBuffersBound_writeWord (h : RxBuffersBound s)
    (hv : ∀ j, j < s.cfg.rxCount → descRx s.cfg j = a → v &&& 0xFFFFFFFC = rxBufferAddr s.cfg j) :
    RxBuffersBound { s with mem := writeWord s.mem a v } := by
  intro j hj
  by_cases he : descRx s.cfg j = a
  · rw [← hv j hj he]
    dsimp only
    rw [he, readWord_writeWord_same]
  · have hal := hl.rxAligned
    have hj8 := toNat_descRx hl hj
    rw [← h j hj]
    dsimp only
    rw [readWord_writeWord_of_ne _ ha (by omega) he]

end WordWrite

/-! ### The words of the slots are different words -/

section Slots

variable {c : Config} (hl : RingLayout c)
include hl

theorem toNat_descTx_word1 {i : Nat} (hi : i < c.txCount) : (descTx c i + 4).toNat = c.txDescBase.toNat + 8 * i + 4 := by
  have hi8 := toNat_descTx hl hi
  have hal := hl.txAligned
  rw [toNat_add_four (by omega), hi8]

theorem toNat_descRx_word1 {i : Nat} (hi : i < c.rxCount) : (descRx c i + 4).toNat = c.rxDescBase.toNat + 8 * i + 4 := by
  have hi8 := toNat_descRx hl hi
  have hal := hl.rxAligned
  rw [toNat_add_four (by omega), hi8]

/-- Different slots have different words 1 in the TX ring. -/
theorem descTx_word1_inj {i j : Nat} (hi : i < c.txCount) (hj : j < c.txCount) (he : descTx c j + 4 = descTx c i + 4) :
    j = i := by
  have hj8 := toNat_descTx_word1 hl hj
  rw [he, toNat_descTx_word1 hl hi] at hj8
  omega

/-- Different slots have different words 0 in the RX ring. -/
theorem descRx_inj {i j : Nat} (hi : i < c.rxCount) (hj : j < c.rxCount) (he : descRx c j = descRx c i) : j = i := by
  have hj8 := toNat_descRx hl hj
  rw [he, toNat_descRx hl hi] at hj8
  omega

theorem descTx_word1_ne_word0 {i j : Nat} (hi : i < c.txCount) (hj : j < c.txCount) : descTx c j + 4 ≠ descTx c i :=
  fun he => by
    have hj8 := toNat_descTx_word1 hl hj
    rw [he, toNat_descTx hl hi] at hj8
    omega

theorem descRx_ne_word1 {i j : Nat} (hi : i < c.rxCount) (hj : j < c.rxCount) : descRx c j ≠ descRx c i + 4 := fun he => by
  have hj8 := toNat_descRx hl hj
  rw [he, toNat_descRx_word1 hl hi] at hj8
  omega

theorem descRx_ne_descTx {i j : Nat} (hi : i < c.txCount) (hj : j < c.rxCount) : descRx c j ≠ descTx c i := fun he => by
  have hj8 := toNat_descRx hl hj
  have hrings := hl.rings
  rw [he, toNat_descTx hl hi] at hj8
  omega

theorem descRx_ne_descTx_word1 {i j : Nat} (hi : i < c.txCount) (hj : j < c.rxCount) : descRx c j ≠ descTx c i + 4 :=
  fun he => by
    have hj8 := toNat_descRx hl hj
    have hrings := hl.rings
    rw [he, toNat_descTx_word1 hl hi] at hj8
    omega

theorem descTx_word1_ne_descRx_word1 {i j : Nat} (hi : i < c.rxCount) (hj : j < c.txCount) :
    descTx c j + 4 ≠ descRx c i + 4 := fun he => by
  have hj8 := toNat_descTx_word1 hl hj
  have hrings := hl.rings
  rw [he, toNat_descRx_word1 hl hi] at hj8
  omega

end Slots

/-! ### A store into a descriptor -/

section Store

variable {s : State} {i : Nat} {v : Word} (hl : RingLayout s.cfg) (h : RingsWrap s)
include hl h

theorem ringsWrap_store_txWord0 (hi : i < s.cfg.txCount) :
    RingsWrap { s with mem := writeWord s.mem (descTx s.cfg i) v } := by
  have hal := hl.txAligned
  have ha : (descTx s.cfg i).toNat % 4 = 0 := by rw [toNat_descTx hl hi]; omega
  exact ⟨txRingWraps_writeWord hl ha h.1 fun j hj he => absurd he (descTx_word1_ne_word0 hl hi hj),
    rxRingWraps_writeWord hl ha h.2 fun j hj he => absurd he (descRx_ne_descTx hl hi hj)⟩

theorem ringsWrap_store_txWord1 (hi : i < s.cfg.txCount) (hv : v.getLsbD 30 = decide (i + 1 = s.cfg.txCount)) :
    RingsWrap { s with mem := writeWord s.mem (descTx s.cfg i + 4) v } := by
  have hal := hl.txAligned
  have ha : (descTx s.cfg i + 4).toNat % 4 = 0 := by rw [toNat_descTx_word1 hl hi]; omega
  exact ⟨txRingWraps_writeWord hl ha h.1 fun j hj he => descTx_word1_inj hl hi hj he ▸ hv,
    rxRingWraps_writeWord hl ha h.2 fun j hj he => absurd he (descRx_ne_descTx_word1 hl hi hj)⟩

theorem ringsWrap_store_rxWord0 (hi : i < s.cfg.rxCount) (hv : v.getLsbD 1 = decide (i + 1 = s.cfg.rxCount)) :
    RingsWrap { s with mem := writeWord s.mem (descRx s.cfg i) v } := by
  have hal := hl.rxAligned
  have ha : (descRx s.cfg i).toNat % 4 = 0 := by rw [toNat_descRx hl hi]; omega
  exact ⟨txRingWraps_writeWord hl ha h.1 fun j hj he => absurd he.symm (descRx_ne_descTx_word1 hl hj hi),
    rxRingWraps_writeWord hl ha h.2 fun j hj he => descRx_inj hl hi hj he ▸ hv⟩

theorem ringsWrap_store_rxWord1 (hi : i < s.cfg.rxCount) :
    RingsWrap { s with mem := writeWord s.mem (descRx s.cfg i + 4) v } := by
  have hal := hl.rxAligned
  have ha : (descRx s.cfg i + 4).toNat % 4 = 0 := by rw [toNat_descRx_word1 hl hi]; omega
  exact ⟨txRingWraps_writeWord hl ha h.1 fun j hj he => absurd he (descTx_word1_ne_descRx_word1 hl hi hj),
    rxRingWraps_writeWord hl ha h.2 fun j hj he => absurd he (descRx_ne_word1 hl hi hj)⟩

end Store

section StoreBound

variable {s : State} {i : Nat} {v : Word} (hl : RingLayout s.cfg) (h : RxBuffersBound s) (hi : i < s.cfg.rxCount)
include hl h hi

theorem rxBuffersBound_store_rxWord0 (hv : v &&& 0xFFFFFFFC = rxBufferAddr s.cfg i) :
    RxBuffersBound { s with mem := writeWord s.mem (descRx s.cfg i) v } := by
  have hal := hl.rxAligned
  have ha : (descRx s.cfg i).toNat % 4 = 0 := by rw [toNat_descRx hl hi]; omega
  exact rxBuffersBound_writeWord hl ha h fun j hj he => descRx_inj hl hi hj he ▸ hv

theorem rxBuffersBound_store_rxWord1 :
    RxBuffersBound { s with mem := writeWord s.mem (descRx s.cfg i + 4) v } := by
  have hal := hl.rxAligned
  have ha : (descRx s.cfg i + 4).toNat % 4 = 0 := by rw [toNat_descRx_word1 hl hi]; omega
  exact rxBuffersBound_writeWord hl ha h fun j hj he => absurd he (descRx_ne_word1 hl hi hj)

end StoreBound

/-! ### What a write into a pool does to the rings -/

/-- Word 1 of every TX descriptor and word 0 of every RX descriptor read as before. -/
def SameRingWords (c : Config) (m m' : Memory) : Prop :=
  (∀ j, j < c.txCount → readWord m' (descTx c j + 4) = readWord m (descTx c j + 4))
    ∧ ∀ j, j < c.rxCount → readWord m' (descRx c j) = readWord m (descRx c j)

theorem SameRingWords.trans {c : Config} {m m' m'' : Memory} (h : SameRingWords c m m') (h' : SameRingWords c m' m'') :
    SameRingWords c m m'' :=
  ⟨fun j hj => (h'.1 j hj).trans (h.1 j hj), fun j hj => (h'.2 j hj).trans (h.2 j hj)⟩

theorem ringsWrap_of_sameRingWords {s : State} {m : Memory} (h : RingsWrap s) (hm : SameRingWords s.cfg s.mem m) :
    RingsWrap { s with mem := m } := by
  obtain ⟨htx, hrx⟩ := h
  refine ⟨fun j hj => ?_, fun j hj => ?_⟩
  · rw [← htx j hj, ← hm.1 j hj]
  · rw [← hrx j hj, ← hm.2 j hj]

theorem rxBuffersBound_of_sameRingWords {s : State} {m : Memory} (h : RxBuffersBound s)
    (hm : SameRingWords s.cfg s.mem m) : RxBuffersBound { s with mem := m } := fun j hj => by
  rw [← h j hj, ← hm.2 j hj]

/-- A write that lies outside both rings leaves their words alone. -/
theorem sameRingWords_writeBytes {c : Config} (hl : RingLayout c) (m : Memory) {a : Word} {bs : List Byte}
    (ha : a.toNat + bs.length ≤ 4294967296)
    (htx : c.txDescBase.toNat + 8 * c.txCount ≤ a.toNat ∨ a.toNat + bs.length ≤ c.txDescBase.toNat)
    (hrx : c.rxDescBase.toNat + 8 * c.rxCount ≤ a.toNat ∨ a.toNat + bs.length ≤ c.rxDescBase.toNat) :
    SameRingWords c m (writeBytes m a bs) := by
  have hte := hl.txEnd
  have hre := hl.rxEnd
  refine ⟨fun j hj => ?_, fun j hj => ?_⟩
  · have hal := hl.txAligned
    have hj8 := toNat_descTx hl hj
    have hj4 := toNat_add_four (a := descTx c j) (by omega)
    refine readWord_writeBytes_of_disjoint m ha ?_ ?_ <;> omega
  · have hj8 := toNat_descRx hl hj
    refine readWord_writeBytes_of_disjoint m ha ?_ ?_ <;> omega

/-- A write inside the buffer bound to an RX descriptor leaves the rings' words alone. -/
theorem sameRingWords_rxBuffer {c : Config} (hl : RingLayout c) (m : Memory) {i n : Nat} {bs : List Byte}
    (hi : i < c.rxCount) (hn : n + bs.length ≤ 128) :
    SameRingWords c m (writeBytes m (rxBufferAddr c i + BitVec.ofNat 32 n) bs) := by
  cases bs with
  | nil => exact ⟨fun _ _ => rfl, fun _ _ => rfl⟩
  | cons b bs =>
    have haddr := toNat_rxBufferAddr hl hi
    have hend := hl.rxPoolEnd
    have hrx := hl.rx_rxPool
    have htx := hl.tx_rxPool
    have hat : (rxBufferAddr c i + BitVec.ofNat 32 n).toNat = c.rxPool.toNat + 128 * i + n := by
      rw [BitVec.toNat_add, BitVec.toNat_ofNat, haddr]
      simp only [List.length_cons] at hn
      omega
    apply sameRingWords_writeBytes hl m <;> rw [hat] <;> omega

/-- A write from the start of a TX buffer, no longer than it, leaves the rings' words alone. -/
theorem sameRingWords_txBuffer {c : Config} (hl : RingLayout c) (m : Memory) {i : Nat} {bs : List Byte}
    (hi : i < c.txCount) (hn : bs.length ≤ c.txBufSize) : SameRingWords c m (writeBytes m (txBufferAddr c i) bs) := by
  obtain ⟨hlo, hhi⟩ := txBuffer_in_pool hl hi
  have hend := hl.txPoolEnd
  have hrx := hl.rx_txPool
  have htx := hl.tx_txPool
  apply sameRingWords_writeBytes hl m <;> omega

/-! ### The words the engines write back -/

/-- An RX word 0 names the same buffer whoever owns it (30_encoding.md R214). -/
theorem rxWord_and_mask (own : Bool) (f : RxFields) : rxWord own f &&& 0xFFFFFFFC = rxBufferOf f := by
  have hmask : ∀ k < 32, (0xFFFFFFFC : Word).getLsbD k = decide (2 ≤ k) := by decide
  apply BitVec.eq_of_getLsbD_eq
  intro k hk
  rw [BitVec.getLsbD_and, hmask k hk, getLsbD_rxWord, rxBufferOf, BitVec.getLsbD_append]
  by_cases h2 : k < 2
  · simp [h2]
  · rw [if_neg (by omega), if_neg (by omega), if_neg h2]
    simp [Nat.not_lt.1 h2]

/-- The buffer the fields of a word 0 name is the one the word names. -/
theorem rxBufferOf_fields (w : Word) : rxBufferOf ⟨w.extractLsb' 2 30, w.getLsbD 1⟩ = w &&& 0xFFFFFFFC := by
  rw [← rxWord_and_mask (w.getLsbD 0), rxWord_fields]

/-- A completion leaves `WRAP` as it was (42_tx_engine.md R318). -/
theorem getLsbD_or_outcomeDescBits (w : Word) (o : TxOutcome) : (w ||| outcomeDescBits o).getLsbD 30 = w.getLsbD 30 := by
  have : (outcomeDescBits o).getLsbD 30 = false := by cases o <;> rfl
  rw [BitVec.getLsbD_or, this, Bool.or_false]

theorem aligned_of_descriptorOk {c : Config} {d : Word} (h : descriptorOk c d = true) : d.toNat % 8 = 0 := by
  simp only [descriptorOk, Bool.and_eq_true, beq_iff_eq] at h
  exact and_seven_eq_zero_iff.1 h.1

/-! ### Pointers stay at slots -/

/-- The advance past slot `i` of a ring of `n` slots, with `WRAP` on the last, is to a slot (R71). -/
theorem advance_slot {b p : Word} {i n : Nat} (hi : i < n)
    (h : advance (b + BitVec.ofNat 32 (8 * 0)) (b + BitVec.ofNat 32 (8 * i)) (decide (i + 1 = n)) = some p) :
    ∃ j, j < n ∧ p = b + BitVec.ofNat 32 (8 * j) := by
  rcases advance_eq_some.1 h with ⟨-, rfl⟩ | ⟨hw, -, rfl⟩
  · exact ⟨0, by omega, rfl⟩
  · have hne : i + 1 ≠ n := of_decide_eq_false hw
    refine ⟨i + 1, by omega, ?_⟩
    rw [Nat.mul_succ, BitVec.ofNat_add, BitVec.add_assoc]
    rfl

/-- After a frame's last descriptor the TX engine is at a slot, whatever the outcome (42_tx_engine.md R315). -/
theorem pointerAfterLast_slot {s : State} {i : Nat} {o : TxOutcome} {p : Word} (hb : s.tx.base = descTx s.cfg 0)
    (hp : s.tx.ptr = descTx s.cfg i) (hi : i < s.cfg.txCount)
    (h : pointerAfterLast s (decide (i + 1 = s.cfg.txCount)) o = some p) :
    ∃ j, j < s.cfg.txCount ∧ p = descTx s.cfg j := by
  unfold pointerAfterLast at h
  rw [hb, hp] at h
  split at h
  · exact advance_slot hi h
  · split at h
    · cases h; exact ⟨0, by omega, rfl⟩
    · exact advance_slot hi h

/-! ### The TX engine -/

/-- The completion write into a frame's first descriptor, wherever that is, keeps the rings (R318). -/
theorem completionWrite_rings {s : State} (hl : RingLayout s.cfg) (hw : RingsWrap s) (hb : RxBuffersBound s) {d : Word}
    (hd : d.toNat % 8 = 0) (o : TxOutcome) :
    let t := { s with mem := writeWord s.mem (d + 4) (readWord s.mem (d + 4) ||| outcomeDescBits o) }
    RingsWrap t ∧ RxBuffersBound t := by
  have hd4 := toNat_add_four hd
  have ha : (d + 4).toNat % 4 = 0 := by omega
  have hne : ∀ j, j < s.cfg.rxCount → descRx s.cfg j ≠ d + 4 := fun j hj he => by
    have hj8 := toNat_descRx hl hj
    have hal := hl.rxAligned
    rw [he] at hj8
    omega
  refine ⟨⟨txRingWraps_writeWord hl ha hw.1 fun j hj he => ?_, rxRingWraps_writeWord hl ha hw.2 fun j hj he => ?_⟩,
    rxBuffersBound_writeWord hl ha hb fun j hj he => ?_⟩
  · rw [getLsbD_or_outcomeDescBits, ← he, hw.1 j hj]
  · exact absurd he (hne j hj)
  · exact absurd he (hne j hj)

theorem execTxd_ringsOk {s t : State} (hl : RingLayout s.cfg) (h : RingsOk s)
    (ht : exec (decodeTxd (readWord s.mem (s.tx.ptr + 4))) s = .next t) : RingsOk t := by
  have hs := h
  obtain ⟨hw, hb, htb, hrb, ⟨i, hi, htp⟩, hrp, hpw⟩ := h
  have hwrap : (txFields (readWord s.mem (s.tx.ptr + 4))).wrap = decide (i + 1 = s.cfg.txCount) := by
    rw [htp]; exact hw.1 i hi
  unfold decodeTxd at ht
  split at ht
  · simp only [exec] at ht
    rcases execTxdStop_eq_next.1 ht with ⟨-, rfl⟩ | ⟨-, -, rfl⟩ | ⟨-, fr, -, hfr, rfl⟩
    · exact hs
    · exact hs
    · obtain ⟨hw', hb'⟩ := completionWrite_rings hl hw hb (aligned_of_descriptorOk hfr) .bex
      refine ⟨hw', hb', htb, hrb, ?_, hrp, hpw⟩
      dsimp only [stopMidFrame]
      split
      · exact ⟨0, hl.txSome, htb⟩
      · exact ⟨i, hi, htp⟩
  · split at ht
    · rcases execTxdLast_eq_next.1 ht with ⟨-, rfl⟩ | ⟨-, -, p, hp, hfr, rfl⟩
      · exact hs
      · obtain ⟨hw', hb'⟩ := completionWrite_rings hl hw hb (aligned_of_descriptorOk hfr)
          (mediumOutcome (fullDuplex s) s.draws.outcome)
        rw [hwrap] at hp
        have hslot := pointerAfterLast_slot htb htp hi hp
        exact ⟨hw', hb', htb, hrb, hslot, hrp, hpw⟩
    · rcases execTxdBuf_eq_next.1 ht with ⟨-, rfl⟩ | ⟨-, -, p, hp, rfl⟩
      · exact hs
      · rw [hwrap, htb, htp] at hp
        exact ⟨hw, hb, htb, hrb, advance_slot hi hp, hrp, hpw⟩

/-! ### The RX engine -/

/-- Memory after the two data writes of a filled buffer at `a` (43_rx_engine.md R356, R359). -/
def rxDataWritten (s : State) (g : RxFrame) (a : Word) : Memory :=
  writeBytes (writeBytes s.mem a ((g.bytes.drop g.pos).take (chunkSize g))) (a + BitVec.ofNat 32 (chunkSize g))
    (s.draws.tail.toList.drop (chunkSize g))

theorem fillBuffer_eq (f : RxFields) (s : State) (g : RxFrame) : fillBuffer f s g =
    writeWord (writeWord (rxDataWritten s g (rxBufferOf f)) (s.rx.ptr + 4)
      (rxStatusWord g.bytes.length g.first (isLastChunk g))) s.rx.ptr (rxFilledWord f) := rfl

/-- The data writes stay in the buffer bound to the descriptor. -/
theorem rxDataWritten_sameRingWords {s : State} (hl : RingLayout s.cfg) (g : RxFrame) {i : Nat} (hi : i < s.cfg.rxCount) :
    SameRingWords s.cfg s.mem (rxDataWritten s g (rxBufferAddr s.cfg i)) := by
  have hn : chunkSize g ≤ 128 := Nat.min_le_left ..
  have h1 := sameRingWords_rxBuffer hl s.mem (n := 0) (bs := (g.bytes.drop g.pos).take (chunkSize g)) hi (by
    rw [List.length_take]; omega)
  rw [BitVec.add_zero] at h1
  exact h1.trans (sameRingWords_rxBuffer hl _ hi (by simp; omega))

/-- The two words of a filled descriptor keep the rings, if word 0 keeps `WRAP` and the buffer's address (R364). -/
theorem rxSlotWrites_rings {s : State} {i : Nat} (hl : RingLayout s.cfg) (hw : RingsWrap s) (hb : RxBuffersBound s)
    (hi : i < s.cfg.rxCount) (v1 : Word) {v0 : Word} (hwrap : v0.getLsbD 1 = decide (i + 1 = s.cfg.rxCount))
    (hname : v0 &&& 0xFFFFFFFC = rxBufferAddr s.cfg i) :
    let t := { s with mem := writeWord (writeWord s.mem (descRx s.cfg i + 4) v1) (descRx s.cfg i) v0 }
    RingsWrap t ∧ RxBuffersBound t := by
  have hw1 := ringsWrap_store_rxWord1 (v := v1) hl hw hi
  have hb1 := rxBuffersBound_store_rxWord1 (v := v1) hl hb hi
  exact ⟨ringsWrap_store_rxWord0 (s := { s with mem := writeWord s.mem (descRx s.cfg i + 4) v1 }) hl hw1 hi hwrap,
    rxBuffersBound_store_rxWord0 (s := { s with mem := writeWord s.mem (descRx s.cfg i + 4) v1 }) hl hb1 hi hname⟩

/-- The four writes of a filled buffer keep the rings (43_rx_engine.md R356, R364). -/
theorem fillBuffer_rings {s : State} (hl : RingLayout s.cfg) (hw : RingsWrap s) (hb : RxBuffersBound s) (g : RxFrame)
    {i : Nat} (hi : i < s.cfg.rxCount) (hp : s.rx.ptr = descRx s.cfg i) {f : RxFields}
    (hbuf : rxBufferOf f = rxBufferAddr s.cfg i) (hwrap : f.wrap = decide (i + 1 = s.cfg.rxCount)) :
    let t := { s with mem := fillBuffer f s g }
    RingsWrap t ∧ RxBuffersBound t := by
  have hbit : (rxFilledWord f).getLsbD 1 = f.wrap := by rw [rxFilledWord, getLsbD_rxWord]; rfl
  have hname : rxFilledWord f &&& 0xFFFFFFFC = rxBufferAddr s.cfg i := by rw [rxFilledWord, rxWord_and_mask, hbuf]
  have hdata := rxDataWritten_sameRingWords hl g hi
  rw [fillBuffer_eq, hbuf, hp]
  generalize rxDataWritten s g (rxBufferAddr s.cfg i) = m at hdata ⊢
  exact rxSlotWrites_rings (s := { s with mem := m }) hl (ringsWrap_of_sameRingWords hw hdata)
    (rxBuffersBound_of_sameRingWords hb hdata) hi _ (hbit.trans hwrap) hname

theorem execRxd_ringsOk {s t : State} (hl : RingLayout s.cfg) (h : RingsOk s)
    (ht : exec (decodeRxd (readWord s.mem s.rx.ptr)) s = .next t) : RingsOk t := by
  have hs := h
  obtain ⟨hw, hb, htb, hrb, htp, ⟨i, hi, hrp⟩, hpw⟩ := h
  simp only [decodeRxd] at ht
  split at ht
  · simp only [exec] at ht
    rcases execRxdFull_eq_next.1 ht with ⟨-, rfl⟩ | ⟨-, -, rfl⟩
    all_goals exact hs
  · rcases execRxdFree_eq_next.1 ht with ⟨-, rfl⟩ | ⟨g, -, -, -, -, p, hp, rfl⟩
    · exact hs
    · have hwrap : (readWord s.mem s.rx.ptr).getLsbD 1 = decide (i + 1 = s.cfg.rxCount) := by
        rw [hrp]; exact hw.2 i hi
      have hbuf : rxBufferOf ⟨(readWord s.mem s.rx.ptr).extractLsb' 2 30, (readWord s.mem s.rx.ptr).getLsbD 1⟩
          = rxBufferAddr s.cfg i := by
        rw [rxBufferOf_fields, hrp, hb i hi]
      obtain ⟨hw', hb'⟩ := fillBuffer_rings hl hw hb g hi hrp hbuf hwrap
      dsimp only at hp
      rw [hwrap, hrb, hrp] at hp
      unfold afterFill
      split
      · exact ⟨hw', hb', htb, hrb, htp, advance_slot hi hp, hpw⟩
      · exact ⟨hw', hb', htb, hrb, htp, advance_slot hi hp, hpw⟩

/-! ### The other agents restart the engines at most -/

/-- Memory, the posted writes and the queue bases are as before; each engine stands where it stood or at its base. -/
def RestartsOnly (s t : State) : Prop :=
  t.cfg = s.cfg ∧ t.mem = s.mem ∧ t.pw = s.pw ∧ t.tx.base = s.tx.base ∧ (t.tx.ptr = s.tx.ptr ∨ t.tx.ptr = s.tx.base)
    ∧ t.rx.base = s.rx.base ∧ t.rx.ptr = s.rx.ptr

theorem restartsOnly_refl (s : State) : RestartsOnly s s := ⟨rfl, rfl, rfl, rfl, .inl rfl, rfl, rfl⟩

theorem ringsOk_of_restartsOnly {s t : State} (hl : RingLayout s.cfg) (h : RingsOk s) (ht : RestartsOnly s t) :
    RingsOk t := by
  obtain ⟨hw, hb, htb, hrb, htp, hrp, hpw⟩ := h
  obtain ⟨hc, hm, hq, htb', htp', hrb', hrp'⟩ := ht
  have hslot : ∃ i, i < s.cfg.txCount ∧ t.tx.ptr = descTx s.cfg i := by
    rcases htp' with hptr | hptr
    · rwa [hptr]
    · exact ⟨0, hl.txSome, by rw [hptr, htb]⟩
  simp only [RingsOk, RingsWrap, TxRingWraps, RxRingWraps, RxBuffersBound, PointersInRings, hc, hm, hq, htb', hrb', hrp']
  exact ⟨hw, hb, htb, hrb, hslot, hrp, hpw⟩

theorem writeNcr_restartsOnly (v : Word) (s : State) : RestartsOnly s (writeNcr v s) := by
  rw [writeNcr_eq]
  exact ⟨rfl, rfl, rfl, ncrTx_base v s, ncrTx_ptr v s, ncrRx_base v s, ncrRx_ptr v s⟩

theorem mdioPeriod_restartsOnly {s t k : State} (h : mdioPeriod s k = .next t) (hk : RestartsOnly s k) :
    RestartsOnly s t := by
  rcases mdioPeriod_eq_next.1 h with ⟨-, rfl⟩ | ⟨-, -, rfl⟩ | ⟨-, -, rfl⟩
  · exact restartsOnly_refl _
  · exact ⟨rfl, rfl, rfl, rfl, .inl rfl, rfl, rfl⟩
  · exact hk

/-- Every register operation but a write of a queue pointer, and every management frame, restarts the engines at most. -/
theorem exec_restartsOnly {i : Instr} {s t : State} (h : exec i s = .next t) (htx : i.format ≠ .txdW1)
    (hrx : i.format ≠ .rxdW0) (hrbqp : ∀ v, i ≠ .wrRbqp v) (htbqp : ∀ v, i ≠ .wrTbqp v) : RestartsOnly s t := by
  cases i with
  | txdStop last f | txdBuf f | txdLast f => exact absurd rfl htx
  | rxdFree f | rxdFull f => exact absurd rfl hrx
  | wrRbqp v => exact absurd rfl (hrbqp v)
  | wrTbqp v => exact absurd rfl (htbqp v)
  | rdNcr | rdNcfg | rdNsr | rdTsr | rdRbqp | rdTbqp | rdRsr | rdIsr | rdImr | rdMan | rdSa1b | rdSa1t | rdUsrio =>
    obtain ⟨v, rfl | ⟨-, rfl⟩⟩ := exec_read_cases rfl h
    all_goals exact ⟨rfl, rfl, rfl, rfl, .inl rfl, rfl, rfl⟩
  | wrTsr v | wrRsr v | wrIer v | wrIdr v | wrSa1t v | wrUsrio v =>
    obtain ⟨-, h⟩ := ifAccepted_eq_next.1 h
    cases h
    exact ⟨rfl, rfl, rfl, rfl, .inl rfl, rfl, rfl⟩
  | wrSa1b v =>
    cases h
    exact ⟨rfl, rfl, rfl, rfl, .inl rfl, rfl, rfl⟩
  | wrNcr v =>
    obtain ⟨-, h⟩ := ifAccepted_eq_next.1 h
    split at h
    · cases h
    · cases h
      exact writeNcr_restartsOnly v s
  | wrNcfg v =>
    obtain ⟨-, h⟩ := ifAccepted_eq_next.1 h
    split at h
    · cases h
    · cases h
      exact ⟨rfl, rfl, rfl, rfl, .inl rfl, rfl, rfl⟩
  | wrMan v =>
    simp only [exec, execWrMan] at h
    split at h
    · cases h
    · split at h
      · cases h
        exact ⟨rfl, rfl, rfl, rfl, .inl rfl, rfl, rfl⟩
      · split at h
        · cases h
          exact ⟨rfl, rfl, rfl, rfl, .inl rfl, rfl, rfl⟩
        · cases h
  | mdioRead f => exact mdioPeriod_restartsOnly (k := mdioReadDone f s) h ⟨rfl, rfl, rfl, rfl, .inl rfl, rfl, rfl⟩
  | mdioWrite f => exact mdioPeriod_restartsOnly (k := mdioWriteDone f s) h ⟨rfl, rfl, rfl, rfl, .inl rfl, rfl, rfl⟩

theorem mediumStep_restartsOnly (s : State) : RestartsOnly s (mediumStep s) := by
  unfold mediumStep
  split
  · split <;> exact ⟨rfl, rfl, rfl, rfl, .inl rfl, rfl, rfl⟩
  · exact restartsOnly_refl s

/-- A posted write decodes to the write of its register. -/
theorem decodeBus_write {r : Reg} {v : Word} {i : Instr} (h : decodeBus (busCommand true r) v = .ok i) :
    i.format = .bus9 ∧ (∀ w, i = .wrRbqp w → r = .rbqp ∧ w = v) ∧ ∀ w, i = .wrTbqp w → r = .tbqp ∧ w = v := by
  cases r <;> cases h
  all_goals exact ⟨rfl, fun w hw => by cases hw <;> exact ⟨rfl, rfl⟩, fun w hw => by cases hw <;> exact ⟨rfl, rfl⟩⟩

theorem decodeMan_format {w : Word} {i : Instr} (h : decodeMan w = .ok i) : i.format = .man32 := by
  unfold decodeMan at h
  split at h
  · split at h
    · cases h; rfl
    · split at h
      · cases h; rfl
      · cases h
  · cases h

/-- A performed write of a queue pointer sends its engine to slot 0 (41_host_registers.md R262, R264). -/
theorem busStep_ringsOk {s t : State} (hl : RingLayout s.cfg) (h : RingsOk s) (ht : busStep s = .next t) : RingsOk t := by
  unfold busStep at ht
  split at ht
  · cases ht; exact h
  · next r v rest hpw =>
    have hs := h
    obtain ⟨hw, hb, htb, hrb, htp, hrp, hq⟩ := h
    rw [hpw] at hq
    obtain ⟨hhead, hrest⟩ := List.forall_mem_cons.1 hq
    have hs' : RingsOk { s with pw := rest } := ⟨hw, hb, htb, hrb, htp, hrp, hrest⟩
    unfold runDecoded at ht
    split at ht
    · next i hi =>
      obtain ⟨hbus, hrbqp, htbqp⟩ := decodeBus_write hi
      by_cases hr : ∃ w, i = .wrRbqp w
      · obtain ⟨w, rfl⟩ := hr
        obtain ⟨rfl, rfl⟩ := hrbqp w rfl
        obtain ⟨-, ht⟩ := ifQueueAligned_eq_next.1 ht
        split at ht
        · cases ht
        · cases ht
          have h0 := hhead.2 rfl
          exact ⟨hw, hb, htb, h0, htp, ⟨0, hl.rxSome, h0⟩, hrest⟩
      by_cases htx : ∃ w, i = .wrTbqp w
      · obtain ⟨w, rfl⟩ := htx
        obtain ⟨rfl, rfl⟩ := htbqp w rfl
        obtain ⟨-, ht⟩ := ifQueueAligned_eq_next.1 ht
        split at ht
        · cases ht
        · cases ht
          have h0 := hhead.1 rfl
          exact ⟨hw, hb, h0, hrb, ⟨0, hl.txSome, h0⟩, hrp, hrest⟩
      · exact ringsOk_of_restartsOnly (s := { s with pw := rest }) hl hs' (exec_restartsOnly ht (by rw [hbus]; decide) (by rw [hbus]; decide)
          (not_exists.1 hr) (not_exists.1 htx))
    · cases ht

/-- Each agent of the EMAC and its environment keeps the rings; the host's contexts and a platform reset are not among
them. -/
theorem agentStep_ringsOk {g : Agent} {s t : State} (hl : RingLayout s.cfg) (h : RingsOk s)
    (ht : agentStep g s = .next t) (hTx : g ≠ .hostTx) (hRx : g ≠ .hostRx) (hIsr : g ≠ .hostIsr) (hReset : g ≠ .reset) :
    RingsOk t := by
  cases g with
  | txe =>
    simp only [agentStep, txeStep] at ht
    split at ht
    · obtain ⟨w, hw, ht⟩ := andThen_eq_next.1 ht
      unfold txFetch at hw
      split at hw
      · cases hw; exact execTxd_ringsOk hl h ht
      · cases hw
    · cases ht; exact h
  | rxe =>
    simp only [agentStep, rxeStep] at ht
    split at ht
    · obtain ⟨w, hw, ht⟩ := andThen_eq_next.1 ht
      unfold rxFetch at hw
      split at hw
      · cases hw; exact execRxd_ringsOk hl h ht
      · cases hw
    · cases ht; exact h
  | mdio =>
    simp only [agentStep, mdioStep] at ht
    split at ht
    · unfold runDecoded at ht
      split at ht
      · next i hi =>
        have hf := decodeMan_format hi
        exact ringsOk_of_restartsOnly hl h (exec_restartsOnly ht (by rw [hf]; decide) (by rw [hf]; decide)
          (fun v he => by rw [he] at hf; cases hf) fun v he => by rw [he] at hf; cases hf)
      · cases ht
    · cases ht; exact h
  | bus => exact busStep_ringsOk hl h ht
  | phy => cases ht; exact h
  | medium => cases ht; exact ringsOk_of_restartsOnly hl h (mediumStep_restartsOnly s)
  | intc =>
    cases ht
    unfold intcStep
    split <;> exact h
  | hostTx => exact absurd rfl hTx
  | hostRx => exact absurd rfl hRx
  | hostIsr => exact absurd rfl hIsr
  | reset => exact absurd rfl hReset

/-! ### The lines of the procedures -/

/-- The rings keep `WRAP` if memory and the configuration do not change. -/
theorem ringsWrap_congr {s t : State} (hc : t.cfg = s.cfg) (hm : t.mem = s.mem) (h : RingsWrap s) : RingsWrap t := by
  simpa only [RingsWrap, TxRingWraps, RxRingWraps, hc, hm] using h

/-- If the access stores, the rings carry `WRAP` as they should after the store. -/
def StoreKeepsWrap (s : State) : HostOp → Prop
  | .storeBytes a bs | .bus (.store a bs) => RingsWrap { s with mem := writeBytes s.mem a bs }
  | _ => True

theorem hostRegRead_ringsWrap {cmd : BusCommand} {s u : State} {v : HostValue} (h : RingsWrap s)
    (hw : cmd.getLsbD 8 = false) (hu : hostRegRead cmd s = .next (some (u, v))) : RingsWrap u := by
  obtain ⟨i, hi, -, -, hu, -⟩ := hostRegRead_cases hw hu
  obtain ⟨w, rfl | ⟨-, rfl⟩⟩ := exec_read_cases hi hu
  all_goals exact h

theorem hostRegWrite_ringsWrap {cmd : BusCommand} {w : Word} {s u : State} {v : HostValue} (h : RingsWrap s)
    (hu : hostRegWrite cmd w s = .next (some (u, v))) : RingsWrap u := by
  obtain ⟨r, i, -, -, rfl⟩ := hostRegWrite_cases hu
  exact h

theorem perform_ringsWrap {op : HostOp} {s u : State} {v : HostValue} (h : RingsWrap s) (hop : StoreKeepsWrap s op)
    (hu : perform op s = .next (some (u, v))) : RingsWrap u := by
  cases op with
  | regRead r => exact hostRegRead_ringsWrap h (busCommand_write false r) hu
  | regWrite r w => exact hostRegWrite_ringsWrap h hu
  | loadBytes a n => rw [(hostLoad_cases (hostLoadBytes_cases hu)).1]; exact h
  | storeBytes a bs => rw [hostStore_cases (hostStoreBytes_cases hu)]; exact hop
  | bus x =>
    cases x with
    | load a n =>
      simp only [perform, hostBus] at hu
      split at hu
      · split at hu
        · exact hostRegRead_ringsWrap h (commandAt_write ..) hu
        · cases hu
      · rw [(hostLoad_cases hu).1]; exact h
    | store a bs =>
      simp only [perform, hostBus] at hu
      split at hu
      · split at hu
        · exact hostRegWrite_ringsWrap h hu
        · cases hu
      · rw [hostStore_cases hu]; exact hop
  | software => cases hu; exact h
  | hold => cases hu
  | portOff => rw [(portOff_cases hu).1]; exact h
  | register => cases hu; exact h
  | stop => cases hu

/-! ### The words the lines store -/

/-- Bit 30 of the word 1 of `setup()` (45_sw_transmit.md R450). -/
theorem getLsbD_setupTxWord1 (c : Prop) [Decidable c] :
    (0x80000000 ||| (if c then 0x40000000 else 0) : Word).getLsbD 30 = decide c := by
  split <;> simp_all

/-- Bit 1 of the word 0 of `setup()` (R450): buffers are 4-aligned. -/
theorem getLsbD_setupRxWord0 {a : Word} (ha : a.toNat % 4 = 0) (c : Prop) [Decidable c] :
    (a ||| (if c then 0x2 else 0)).getLsbD 1 = decide c := by
  have hbit : a.getLsbD 1 = false := by
    rw [BitVec.getLsbD, Nat.testBit_eq_decide_div_mod_eq, decide_eq_false_iff_not]
    omega
  rw [BitVec.getLsbD_or, hbit]
  split <;> simp_all

/-- Bit 30 of the word 1 of `send()` (R455). -/
theorem getLsbD_sendWord {n : Nat} (hn : n ≤ 2044) (last wrap : Bool) : (sendWord n last wrap).getLsbD 30 = wrap := by
  have hbit : (BitVec.ofNat 32 n).getLsbD 30 = false := by
    rw [BitVec.getLsbD_ofNat, Nat.testBit_lt_two_pow (by omega), Bool.and_false]
  rw [sendWord, BitVec.getLsbD_or, BitVec.getLsbD_or, hbit]
  cases last <;> cases wrap <;> rfl

/-- Reclaiming an RX descriptor leaves `WRAP` as it was (20_memory.md R172). -/
theorem getLsbD_reclaimed (w : Word) : (reclaimed w).getLsbD 1 = w.getLsbD 1 := by
  rw [reclaimed, BitVec.getLsbD_and]
  exact Bool.and_true _

/-- Marking a TX descriptor used leaves `WRAP` as it was (45_sw_transmit.md R470). -/
theorem getLsbD_or_used (w : Word) : (w ||| 0x80000000).getLsbD 30 = w.getLsbD 30 := by
  rw [BitVec.getLsbD_or]
  exact Bool.or_false _

theorem opOf_storeKeepsWrap {s : State} {p : Point} (hl : RingLayout s.cfg) (h : RingsWrap s) (hc : CursorsInRings s)
    (hp : LineKeepsWrap s.cfg s.sw p) : StoreKeepsWrap s (opOf s.cfg s.sw s.draws p) := by
  obtain ⟨htx, htr, hrx⟩ := hc
  cases p with
  | access x =>
    cases x with
    | load a n => trivial
    | store a bs => exact hp.elim
  | setupTxWord0 i => exact ringsWrap_store_txWord0 hl h hp
  | setupTxWord1 i => exact ringsWrap_store_txWord1 hl h hp (getLsbD_setupTxWord1 _)
  | setupRxWord1 i => exact ringsWrap_store_rxWord1 hl h hp
  | setupRxWord0 i =>
    have hi := toNat_rxBufferAddr hl hp
    have hal := hl.rxPoolAligned
    exact ringsWrap_store_rxWord0 hl h hp (getLsbD_setupRxWord0 (by omega) _)
  | sendCopy l =>
    refine ringsWrap_of_sameRingWords h (sameRingWords_txBuffer hl s.mem htx ?_)
    rw [sendBytes, List.length_take, sendChunk]
    omega
  | sendHandover l =>
    have hn : sendChunk s.cfg l ≤ 2044 := Nat.le_trans (Nat.min_le_right ..) hl.txBufSize_le
    exact ringsWrap_store_txWord1 hl h htx (getLsbD_sendWord hn _ _)
  | reclaimMark w => exact ringsWrap_store_txWord1 hl h htr ((getLsbD_or_used w).trans hp)
  | lengthSkipReclaim w => exact ringsWrap_store_rxWord0 hl h hrx ((getLsbD_reclaimed w).trans hp)
  | readReclaim l w => exact ringsWrap_store_rxWord0 hl h hrx ((getLsbD_reclaimed w).trans hp)
  | lengthDropReclaim j k w1 w => exact ringsWrap_store_rxWord0 hl h hp.1 ((getLsbD_reclaimed w).trans hp.2)
  | bnaReclaim i w => exact ringsWrap_store_rxWord0 hl h hp.1 ((getLsbD_reclaimed w).trans hp.2)
  | readCheck l | readCopy l w | waitBlock | collaborator b => simp only [opOf]; split <;> trivial
  | _ => trivial

theorem lineStep_ringsWrap {id : ContextId} {p : Point} {rest : List Point} {s t : State} (hl : RingLayout s.cfg)
    (h : RingsWrap s) (hc : CursorsInRings s) (hp : LineKeepsWrap s.cfg s.sw p) (ht : lineStep id p rest s = .next t) :
    RingsWrap t := by
  rcases lineStep_cases ht with rfl | ⟨u, v, hu, rfl⟩
  · exact h
  · exact ringsWrap_congr (putContext_cfg ..) (putContext_mem ..)
      (perform_ringsWrap h (opOf_storeKeepsWrap hl h hc hp) hu)

/-- Settles O55: the engines write back each word with its slot's `WRAP` and buffer and move from slot to slot, the other
agents restart the engines at most, and each line's store keeps `WRAP` where it belongs. -/
theorem ringInvariantIsKept : Obligations.RingInvariantIsKept := by
  intro s t hc
  have hl := ringLayout_of_configOk hc
  exact ⟨fun g hTx hRx hIsr hReset h ht => agentStep_ringsOk hl h ht hTx hRx hIsr hReset,
    fun id p rest h hcur hp ht => lineStep_ringsWrap hl h hcur hp ht⟩

end Sys2Proof.Machine

/-!
PROOFS. O57: every step keeps memory in its canonical form (20_memory.md R150, R155).
-/

namespace Sys2Proof.Machine

/-! ### Who writes memory: the TX and RX descriptor forms, and a host store -/

theorem exec_mem_of_not_descriptor {i : Instr} {s t : State} (h : exec i s = .next t) (htx : i.format ≠ .txdW1)
    (hrx : i.format ≠ .rxdW0) : t.mem = s.mem := by
  cases i with
  | wrRbqp v | wrTbqp v =>
    obtain ⟨-, h⟩ := ifQueueAligned_eq_next.1 h
    split at h
    · cases h
    · cases h
      rfl
  | _ =>
    obtain ⟨-, hm, -⟩ := exec_restartsOnly h htx hrx nofun nofun
    exact hm

theorem afterFill_mem (f : RxFields) (s : State) (g : RxFrame) (p : Word) :
    (afterFill f s g p).mem = fillBuffer f s g := by
  unfold afterFill
  split <;> rfl

/-! ### Each write keeps the canonical form -/

theorem memoryCanonical_of_mem_eq {s t : State} (hm : t.mem = s.mem) (h : MemoryCanonical s) : MemoryCanonical t := by
  rwa [MemoryCanonical, hm]

theorem fillBuffer_wf (f : RxFields) {s : State} (g : RxFrame) (h : MemoryCanonical s) : Memory.wf (fillBuffer f s g) :=
  writeWord_wf _ _ (writeWord_wf _ _ (writeBytes_wf _ _ (writeBytes_wf _ _ h)))

/-- The completion write of a frame (42_tx_engine.md R316). -/
theorem finishFrame_memoryCanonical {s : State} (h : MemoryCanonical s) (fr : TxFrame) (o : TxOutcome) :
    MemoryCanonical (finishFrame s fr o) :=
  writeWord_wf _ _ h

theorem exec_memoryCanonical {i : Instr} {s t : State} (h : MemoryCanonical s) (ht : exec i s = .next t) :
    MemoryCanonical t := by
  cases i with
  | txdStop last f =>
    rcases (execTxdStop_eq_next (last := last) (f := f)).1 ht with ⟨-, rfl⟩ | ⟨-, -, rfl⟩ | ⟨-, fr, -, -, rfl⟩
    · exact h
    · exact h
    · exact finishFrame_memoryCanonical h fr .bex
  | txdBuf f =>
    rcases execTxdBuf_eq_next.1 ht with ⟨-, rfl⟩ | ⟨-, -, p, -, rfl⟩
    all_goals exact h
  | txdLast f =>
    rcases execTxdLast_eq_next.1 ht with ⟨-, rfl⟩ | ⟨-, -, p, -, -, rfl⟩
    · exact h
    · exact finishFrame_memoryCanonical h _ _
  | rxdFree f =>
    rcases execRxdFree_eq_next.1 ht with ⟨-, rfl⟩ | ⟨g, -, -, -, -, p, -, rfl⟩
    · exact h
    · rw [MemoryCanonical, afterFill_mem]
      exact fillBuffer_wf f g h
  | rxdFull f =>
    rcases (execRxdFull_eq_next (f := f)).1 ht with ⟨-, rfl⟩ | ⟨-, -, rfl⟩
    all_goals exact h
  | _ => exact memoryCanonical_of_mem_eq (exec_mem_of_not_descriptor ht nofun nofun) h

theorem hostEffect_memoryCanonical {s u : State} (h : MemoryCanonical s) (hu : HostEffect s u) : MemoryCanonical u := by
  rcases hu with ⟨i, -, hi⟩ | ⟨r, w, rfl⟩ | ⟨a, bs, rfl⟩ | rfl | rfl | rfl
  · exact exec_memoryCanonical h hi
  · exact h
  · exact writeBytes_wf a bs h
  all_goals exact h

theorem agentStep_memoryCanonical {g : Agent} {s t : State} (h : MemoryCanonical s) (ht : agentStep g s = .next t) :
    MemoryCanonical t := by
  rcases agentStep_cases ht with rfl | ⟨i, -, hi⟩ | ⟨r, v, rest, i, -, -, hi⟩ | rfl | ⟨-, rfl⟩ | ⟨id, u, stack, n, hu, rfl⟩
    | rfl
  · exact h
  · exact exec_memoryCanonical h hi
  · exact exec_memoryCanonical (s := { s with pw := rest }) h hi
  · exact memoryCanonical_of_mem_eq (mediumStep_restartsOnly s).2.1 h
  · exact h
  · exact memoryCanonical_of_mem_eq (putContext_mem ..) (hostEffect_memoryCanonical h hu)
  · exact h

/-- Settles O57: the agent's step writes memory only through `writeBytes`, and the end of the step does not touch it. -/
theorem stepKeepsMemoryCanonical : Obligations.StepKeepsMemoryCanonical := by
  intro s t h ht
  obtain ⟨-, u, hu, rfl⟩ := step_eq_next.1 ht
  exact memoryCanonical_of_mem_eq (endStep_mem ..) (agentStep_memoryCanonical h hu)

end Sys2Proof.Machine

/-!
PROOFS. O24: the TX pointer faults rather than pass the top of the address space (20_memory.md R159; 42_tx_engine.md R305,
R315).
-/

namespace Sys2Proof.Machine

theorem whileActive_of_active {s : State} {k : Result State} (h : s.tx.state = .active) : whileActive s k = k := if_pos h

theorem txData_of_processable {f : TxFields} {s : State} (h : TxProcessable f s) : txData f s = .next (txBytes f s) := by
  obtain ⟨-, hchecked⟩ := h
  exact txData_eq_next.2 ⟨hchecked, rfl⟩

theorem gather_first (s : State) (data : List Byte) : (gather s data).first = txFirst s := by
  rw [gather, txFirst]
  cases s.tx.frame <;> rfl

/-- There is no descriptor after the one at `0xFFFF_FFF8` (R159). -/
theorem advance_at_top (base : Word) : advance base 0xFFFFFFF8 false = none := rfl

/-- After an outcome that advances the pointer, it has nowhere to go from the top: a delivery advances it by R305, an error
with `HOLD` by R315. -/
theorem pointerAfterLast_at_top {s : State} {o : TxOutcome} (hp : s.tx.ptr = 0xFFFFFFF8)
    (ho : o = .ok ∨ o = .okCol ∨ s.cfg.txErrPtr = .hold) : pointerAfterLast s false o = none := by
  unfold pointerAfterLast
  rw [hp, advance_at_top]
  rcases ho with rfl | rfl | hhold
  · rfl
  · rfl
  · rw [hhold, ite_self]

/-- Settles O24: the descriptor's checks pass, and the advance that both forms then make does not exist. -/
theorem txPointerDoesNotPassTheTop : Obligations.TxPointerDoesNotPassTheTop := by
  intro f s h hwrap hp o
  have hactive := h.1
  refine ⟨?_, fun hfirst ho => ?_⟩
  · simp only [exec, execTxdBuf, whileActive_of_active hactive, txData_of_processable h, andThen_next, hwrap, hp,
      advance_at_top]
  · have hnone : pointerAfterLast s false (mediumOutcome (fullDuplex s) s.draws.outcome) = none :=
      pointerAfterLast_at_top hp ho
    simp only [exec, execTxdLast, whileActive_of_active hactive, txData_of_processable h, andThen_next, gather_first, hfirst,
      hwrap, hnone, Bool.not_true, Bool.false_eq_true, if_false]

end Sys2Proof.Machine

/-!
PROOFS. O28: a filled buffer and its descriptor read what the engine wrote (20_memory.md R169; 43_rx_engine.md R356, R359).
-/

namespace Sys2Proof.Machine

/-! ### The two data writes fill the buffer -/

theorem chunkSize_le (g : RxFrame) : chunkSize g ≤ 128 := Nat.min_le_left ..

theorem length_chunk (g : RxFrame) : ((g.bytes.drop g.pos).take (chunkSize g)).length = chunkSize g := by
  rw [List.length_take, List.length_drop]
  exact Nat.min_eq_left (Nat.min_le_right ..)

theorem length_drawnTail (s : State) (n : Nat) : (s.draws.tail.toList.drop n).length = 128 - n := by
  rw [List.length_drop, Vector.length_toList]

/-- The frame's bytes stand at the start of the buffer: the tail is written after them. -/
theorem readBytes_rxDataWritten_chunk (s : State) (g : RxFrame) (a : Word) :
    readBytes (rxDataWritten s g a) a (chunkSize g) = (g.bytes.drop g.pos).take (chunkSize g) := by
  have hlen := length_chunk g
  have hn := chunkSize_le g
  calc readBytes (rxDataWritten s g a) a (chunkSize g)
      = readBytes (writeBytes s.mem a ((g.bytes.drop g.pos).take (chunkSize g))) a (chunkSize g) :=
        readBytes_congr fun k hk => readByte_writeBytes_of_not_inSpan _ _
          (inSpan_before a hk (by rw [length_drawnTail]; omega))
    _ = (g.bytes.drop g.pos).take (chunkSize g) := by
        have hread := readBytes_writeBytes s.mem a ((g.bytes.drop g.pos).take (chunkSize g)) (by omega)
        rwa [hlen] at hread

/-- The drawn bytes stand after them (R359). -/
theorem readBytes_rxDataWritten_tail (s : State) (g : RxFrame) (a : Word) :
    readBytes (rxDataWritten s g a) (a + BitVec.ofNat 32 (chunkSize g)) (128 - chunkSize g)
      = s.draws.tail.toList.drop (chunkSize g) := by
  have hlen := length_drawnTail s (chunkSize g)
  rw [← hlen]
  exact readBytes_writeBytes _ _ _ (by omega)

/-! ### The two descriptor words -/

theorem readWord_fillBuffer_word0 (f : RxFields) (s : State) (g : RxFrame) :
    readWord (fillBuffer f s g) s.rx.ptr = rxWord true f := by
  rw [fillBuffer_eq, readWord_writeWord_same]
  rfl

theorem readWord_fillBuffer_word1 (f : RxFields) {s : State} (g : RxFrame) (hp : s.rx.ptr.toNat % 8 = 0) :
    readWord (fillBuffer f s g) (s.rx.ptr + 4) = rxStatusWord g.bytes.length g.first (isLastChunk g) := by
  have hp4 := toNat_add_four hp
  have hne : s.rx.ptr + 4 ≠ s.rx.ptr := fun e => by
    rw [e] at hp4
    omega
  rw [fillBuffer_eq, readWord_writeWord_of_ne _ (by omega) (by omega) hne, readWord_writeWord_same]

/-- Outside the descriptor memory is as the two data writes left it. -/
theorem readByte_fillBuffer_of_not_descriptor (f : RxFields) {s : State} (g : RxFrame) {x : Word}
    (h : inSpan x s.rx.ptr 8 = false) : readByte (fillBuffer f s g) x = readByte (rxDataWritten s g (rxBufferOf f)) x := by
  have h0 : inSpan x s.rx.ptr 4 = false := by
    simpa using inSpan_part (j := 0) (n := 4) h (by decide) (by decide)
  have h1 : inSpan x (s.rx.ptr + 4) 4 = false := inSpan_part (j := 4) h (by decide) (by decide)
  rw [fillBuffer_eq, readByte_writeWord_of_not_inSpan _ _ h0, readByte_writeWord_of_not_inSpan _ _ h1]

/-- A part of a buffer that does not meet the descriptor reads what the two data writes left there. -/
theorem readBytes_fillBuffer {f : RxFields} {s : State} (g : RxFrame)
    (hd : ∀ x, inSpan x (rxBufferOf f) 128 = true → inSpan x s.rx.ptr 8 = false) {j m : Nat} (hm : j + m ≤ 128) :
    readBytes (fillBuffer f s g) (rxBufferOf f + BitVec.ofNat 32 j) m
      = readBytes (rxDataWritten s g (rxBufferOf f)) (rxBufferOf f + BitVec.ofNat 32 j) m := by
  refine readBytes_congr fun k hk => readByte_fillBuffer_of_not_descriptor f g (hd _ ?_)
  rw [BitVec.add_assoc, ← BitVec.ofNat_add, inSpan_offset _ _ (by omega), decide_eq_true_eq]
  omega

/-- Settles O28: word 0 is written last and word 1 misses it; the buffer reads the two data writes, which the descriptor's
words do not overwrite. -/
theorem filledBufferIsPublished : Obligations.FilledBufferIsPublished := by
  intro f s t g hg he ht a n hd
  rcases execRxdFree_eq_next.1 ht with ⟨hidle | hoff, -⟩ | ⟨g', hg', -, -, hdesc, p, -, rfl⟩
  · rw [hg] at hidle
    cases hidle
  · rw [he] at hoff
    cases hoff
  · rw [hg] at hg'
    cases hg'
    have hn : n + (128 - n) ≤ 128 := by omega
    rw [afterFill_mem]
    refine ⟨?_, readWord_fillBuffer_word0 f s g, readWord_fillBuffer_word1 f g (aligned_of_descriptorOk hdesc), ?_, ?_⟩
    · rw [readWord_fillBuffer_word0, getLsbD_rxWord]
      rfl
    · have hchunk := readBytes_fillBuffer g hd (j := 0) (m := n) (by omega)
      rw [BitVec.add_zero] at hchunk
      exact hchunk.trans (readBytes_rxDataWritten_chunk s g a)
    · exact (readBytes_fillBuffer g hd hn).trans (readBytes_rxDataWritten_tail s g a)

end Sys2Proof.Machine

/-!
PROOFS. O45, O46 and O47: the widths of host accesses (20_memory.md R156, R160), what a host load reads (R163, R164) and what a
host store breaks (R165, R166).
-/

namespace Sys2Proof.Machine

/-! ### Widths -/

theorem isWordAccess_iff {a : Word} {n : Nat} : isWordAccess a n = true ↔ n = 4 ∧ a &&& 0x3 = 0 := by
  rw [isWordAccess, Bool.and_eq_true, beq_iff_eq, beq_iff_eq]

theorem isWordAccess_eq_false {a : Word} {n : Nat} (h : n ≠ 4 ∨ a.extractLsb' 0 2 ≠ 0#2) : isWordAccess a n = false := by
  rw [Bool.eq_false_iff, Ne, isWordAccess_iff]
  rintro ⟨hn, ha⟩
  rcases h with h | h
  · exact h hn
  · refine h (BitVec.eq_of_toNat_eq ?_)
    simpa using and_three_eq_zero_iff.1 ha

/-- The width test of a host load or store of `n` bytes of memory at `a` refuses it (R160). -/
def refusesWidth (c : Config) (a : Word) (n : Nat) : Bool := isDescriptorAccess c a n && !isWordAccess a n

theorem refusesWidth_eq_false {c : Config} {a : Word} {n : Nat}
    (h : isDescriptorAccess c a n = false ∨ n = 4 ∧ a &&& 0x3 = 0) : refusesWidth c a n = false := by
  rcases h with h | h
  · rw [refusesWidth, h, Bool.false_and]
  · rw [refusesWidth, isWordAccess_iff.2 h, Bool.not_true, Bool.and_false]

theorem refusesWidth_eq_true {c : Config} {a : Word} {n : Nat} (hd : isDescriptorAccess c a n = true)
    (hw : isWordAccess a n = false) : refusesWidth c a n = true := by
  rw [refusesWidth, hd, hw]
  rfl

/-- Settles O45: each of the four operations tests the register window first, then the descriptors; in both places LDB and STB
stop whatever their width, and a bus access stops unless it is a word access. -/
theorem narrowAccessesAreRefused : Obligations.NarrowAccessesAreRefused := by
  rintro a _ bs s rfl
  constructor
  · intro hreg
    refine ⟨if_pos hreg, if_pos hreg, fun hn => ?_⟩
    have hw := ne_true_of_eq_false (isWordAccess_eq_false hn)
    exact ⟨(if_pos hreg).trans (if_neg hw), (if_pos hreg).trans (if_neg hw)⟩
  · intro hreg hdesc
    have hmem := ne_true_of_eq_false hreg
    refine ⟨(if_neg hmem).trans (if_pos hdesc), (if_neg hmem).trans (if_pos hdesc), fun hn => ?_⟩
    have hw := refusesWidth_eq_true hdesc (isWordAccess_eq_false hn)
    exact ⟨(if_neg hmem).trans (if_pos hw), (if_neg hmem).trans (if_pos hw)⟩

/-! ### Loads -/

theorem inHardwareRxBuffer_iff {s : State} {x : Word} : inHardwareRxBuffer s x = true ↔
    ∃ i, i < s.cfg.rxCount ∧ (readWord s.mem (descRx s.cfg i)).getLsbD 0 = false
      ∧ inSpan x (readWord s.mem (descRx s.cfg i) &&& 0xFFFFFFFC) 128 = true := by
  simp [inHardwareRxBuffer, rxHardwareOwned, rxSlotBuffer, rxBufSize]

theorem loadByte_of_inHardwareRxBuffer {s : State} {a : Word} {k : Nat}
    (h : inHardwareRxBuffer s (a + BitVec.ofNat 32 k) = true) : loadByte s a k = drawByte s k := if_pos h

theorem loadByte_of_not_inHardwareRxBuffer {s : State} {a : Word} {k : Nat}
    (h : ¬inHardwareRxBuffer s (a + BitVec.ofNat 32 k) = true) : loadByte s a k = readByte s.mem (a + BitVec.ofNat 32 k) :=
  if_neg h

/-- A load of an allowed width answers its `n` bytes and changes nothing. -/
theorem hostLoad_of_allowed {a : Word} {n : Nat} {s : State} (h : refusesWidth s.cfg a n = false) :
    hostLoad a n s = .next (some (s, ⟨wordOfBytes ((List.range n).map (loadByte s a)), (List.range n).map (loadByte s a)⟩)) :=
  if_neg (ne_true_of_eq_false h)

/-- Settles O46: the bytes of a load are `loadByte`'s, which draws exactly inside the hardware-owned RX buffers. -/
theorem hardwareOwnedBufferReadsAreDraws : Obligations.HardwareOwnedBufferReadsAreDraws := by
  intro a n s h
  refine ⟨_, hostLoad_of_allowed (refusesWidth_eq_false h), by simp, rfl, fun k hk => ?_⟩
  have hbyte : ((List.range n).map (loadByte s a))[k]? = some (loadByte s a k) := by simp [hk]
  refine ⟨fun howned => ?_, fun hfree => ?_⟩
  · exact hbyte.trans (congrArg some (loadByte_of_inHardwareRxBuffer (inHardwareRxBuffer_iff.2 howned)))
  · refine hbyte.trans (congrArg some (loadByte_of_not_inHardwareRxBuffer fun hin => ?_))
    obtain ⟨i, hi, hown, hspan⟩ := inHardwareRxBuffer_iff.1 hin
    rw [hfree i hi hown] at hspan
    cases hspan

/-! ### Stores -/

theorem receptionCanRun_iff {s : State} : receptionCanRun s = true ↔ rxEnabled s = true ∨ s.rx.state ≠ .idle := by
  simp [receptionCanRun]

section Store

variable {a : Word} {bs : List Byte} {s : State} (hw : refusesWidth s.cfg a bs.length = false)
include hw

/-- A store that breaks the RX ring's ownership faults with the store made (R165). -/
theorem hostStore_of_breaksRx (hrx : (receptionCanRun s && breaksRxOwnership s a bs.length) = true) :
    hostStore a bs s = .fault (.rxOwnershipViolation { s with mem := writeBytes s.mem a bs }) :=
  (if_neg (ne_true_of_eq_false hw)).trans (if_pos hrx)

/-- One that breaks the TX ring's ownership alone faults with the store made (R166). -/
theorem hostStore_of_breaksTx (hrx : ¬(receptionCanRun s && breaksRxOwnership s a bs.length) = true)
    (htx : (s.tx.state = .active && breaksTxOwnership s a bs.length) = true) :
    hostStore a bs s = .fault (.txOwnershipViolation { s with mem := writeBytes s.mem a bs }) :=
  (if_neg (ne_true_of_eq_false hw)).trans ((if_neg hrx).trans (if_pos htx))

/-- One that breaks neither makes the store. -/
theorem hostStore_of_breaksNone (hrx : ¬(receptionCanRun s && breaksRxOwnership s a bs.length) = true)
    (htx : ¬(s.tx.state = .active && breaksTxOwnership s a bs.length) = true) :
    hostStore a bs s = .next (some ({ s with mem := writeBytes s.mem a bs }, HostValue.nothing)) :=
  (if_neg (ne_true_of_eq_false hw)).trans ((if_neg hrx).trans (if_neg htx))

end Store

/-- Settles O47: the RX ring is tested first, then the TX ring, and every outcome carries the store, which leaves every other
byte alone. -/
theorem ownershipViolationsFaultAfterTheStore : Obligations.OwnershipViolationsFaultAfterTheStore := by
  intro a bs s h t breaksRx breaksTx
  have hw := refusesWidth_eq_false h
  have hrx : (receptionCanRun s && breaksRxOwnership s a bs.length) = true ↔ breaksRx := by
    rw [Bool.and_eq_true, receptionCanRun_iff]
  have htx : (s.tx.state = .active && breaksTxOwnership s a bs.length) = true ↔ breaksTx := by
    rw [Bool.and_eq_true, decide_eq_true_eq]
  refine ⟨fun hr => hostStore_of_breaksRx hw (hrx.2 hr), fun hr ht => hostStore_of_breaksTx hw (mt hrx.1 hr) (htx.2 ht),
    fun hr ht => ⟨hostStore_of_breaksNone hw (mt hrx.1 hr) (mt htx.1 ht), fun x hx => ?_⟩⟩
  exact readByte_writeBytes_of_not_inSpan s.mem bs hx

end Sys2Proof.Machine

/-!
PROOFS. O6, O7, O49 and O5: the encoder and the decoder are inverse to each other (30_encoding.md R202, R212, R217, R220,
R234), the management words of R221, and the words written out.
-/

namespace Sys2Proof.Machine

/-! ### An encoded word with any bytes after it -/

theorem decode_txdW1_append (w : Word) (rest : List Byte) :
    decode .txdW1 (leBytes w ++ rest) = .ok (decodeTxd w, rest) := by
  simp [decode, leBytes, leWord_bytes]

theorem decode_rxdW0_append (w : Word) (rest : List Byte) :
    decode .rxdW0 (leBytes w ++ rest) = .ok (decodeRxd w, rest) := by
  simp [decode, leBytes, leWord_bytes]

theorem decode_man32_append (w : Word) (rest : List Byte) :
    decode .man32 (leBytes w ++ rest) = (decodeMan w).map (·, rest) := by
  simp [decode, leBytes, leWord_bytes]

/-- Settles O6: in each format the bytes give the encoded word back (`decode_bus_read`, `decode_bus_write` and the three
lemmas above), and the word gives the command and its fields back. -/
theorem decodeOfEncodeIsIdentity : Obligations.DecodeOfEncodeIsIdentity := by
  intro i rest
  cases i with
  | rdNcr | rdNcfg | rdNsr | rdTsr | rdRbqp | rdTbqp | rdRsr | rdIsr | rdImr | rdMan | rdSa1b | rdSa1t | rdUsrio =>
    exact decode_bus_read _ rest (busCommand_write false _)
  | wrNcr v | wrNcfg v | wrTsr v | wrRbqp v | wrTbqp v | wrRsr v | wrIer v | wrIdr v | wrMan v | wrSa1b v | wrSa1t v
  | wrUsrio v => exact decode_bus_write _ v rest (busCommand_write true _)
  | txdStop last f | txdBuf f | txdLast f => exact (decode_txdW1_append _ rest).trans (by rw [decodeTxd_txWord]; rfl)
  | rxdFree f | rxdFull f => exact (decode_rxdW0_append _ rest).trans (by rw [decodeRxd_rxWord]; rfl)
  | mdioRead f | mdioWrite f => exact (decode_man32_append _ rest).trans (by rw [decodeMan_manFrame]; rfl)

/-! ### The command a word decodes to encodes that word -/

theorem encode_decodeTxd (w : Word) : (decodeTxd w).format = .txdW1 ∧ encode (decodeTxd w) = leBytes w := by
  rw [← txWord_txFields w, decodeTxd_txWord]
  cases w.getLsbD 31 <;> cases w.getLsbD 15 <;> exact ⟨rfl, rfl⟩

theorem encode_decodeRxd (w : Word) : (decodeRxd w).format = .rxdW0 ∧ encode (decodeRxd w) = leBytes w := by
  rw [← rxWord_fields w, decodeRxd_rxWord]
  cases w.getLsbD 0 <;> exact ⟨rfl, rfl⟩

/-- A word that decodes is the management frame of a read or of a write (R220, R222). -/
theorem decodeMan_cases {w : Word} {i : Instr} (h : decodeMan w = .ok i) :
    ∃ op f, w = manFrame op f ∧ (op = 2#2 ∧ i = .mdioRead f ∨ op = 1#2 ∧ i = .mdioWrite f) := by
  unfold decodeMan at h
  split at h
  case isFalse => cases h
  case isTrue hfixed =>
    obtain ⟨hstart, hturn⟩ := Bool.and_eq_true_iff.1 hfixed
    refine ⟨_, _, (manFrame_manFields (eq_of_beq hstart) (eq_of_beq hturn)).symm, ?_⟩
    split at h
    · next hread =>
      cases h
      exact .inl ⟨eq_of_beq hread, rfl⟩
    · split at h
      · next hwrite =>
        cases h
        exact .inr ⟨eq_of_beq hwrite, rfl⟩
      · cases h

theorem encode_of_decodeMan {w : Word} {i : Instr} (h : decodeMan w = .ok i) :
    i.format = .man32 ∧ encode i = leBytes w := by
  obtain ⟨op, f, rfl, ⟨rfl, rfl⟩ | ⟨rfl, rfl⟩⟩ := decodeMan_cases h
  · exact ⟨rfl, rfl⟩
  · exact ⟨rfl, rfl⟩

/-! ### The command a register operation's bytes decode to encodes those bytes -/

theorem offset_of_regAt {off : BitVec 8} {r : Reg} (h : regAt off = some r) : r.offset = off :=
  eq_of_beq (List.find?_some (p := fun r : Reg => r.offset == off) h)

/-- A command at a listed offset is that of the register there, in its own direction (R202). -/
theorem busCommand_of_regAt {cmd : BusCommand} {r : Reg} (h : regAt (cmd.extractLsb' 0 8) = some r) :
    busCommand (cmd.getLsbD 8) r = cmd := by
  have hbits : ∀ c : BusCommand, BitVec.ofBool (c.getLsbD 8) ++ c.extractLsb' 0 8 = c := by decide
  rw [busCommand, offset_of_regAt h, hbits]

theorem encode_of_decodeBus {cmd : BusCommand} {v : Word} {i : Instr} (h : decodeBus cmd v = .ok i) :
    i.format = .bus9 ∧ encode i = busBytes cmd (if cmd.getLsbD 8 then leBytes v else []) := by
  cases hr : regAt (cmd.extractLsb' 0 8) with
  | none =>
    rw [decodeBus, hr] at h
    cases h
  | some r =>
    rw [← busCommand_of_regAt hr] at h ⊢
    generalize cmd.getLsbD 8 = write at h ⊢
    rw [busCommand_write]
    cases write <;> cases r <;> cases h
    all_goals exact ⟨rfl, rfl⟩

/-- Two bytes whose seven spare bits are 0 are those of the command read from them. -/
theorem busBytes_of_bytes {b0 b1 : Byte} (h : b1.extractLsb' 1 7 = 0) (data : List Byte) :
    busBytes (b1.extractLsb' 0 1 ++ b0) data = b0 :: b1 :: data := by
  have hlow : (b1.extractLsb' 0 1 ++ b0 : BusCommand).extractLsb' 0 8 = b0 := BitVec.extractLsb'_append_eq_right
  have hhigh : (b1.extractLsb' 0 1 ++ b0 : BusCommand).extractLsb' 8 1 = b1.extractLsb' 0 1 :=
    BitVec.extractLsb'_append_eq_left
  have hspare : ∀ b : Byte, b.extractLsb' 1 7 = 0 → 0#7 ++ b.extractLsb' 0 1 = b := by decide
  rw [busBytes, hlow, hhigh, hspare b1 h]

/-- The decoder's answer is a command and the bytes after it only if it read that command and left those bytes. -/
theorem map_pair_eq_ok {d : Except DecodeError Instr} {i : Instr} {rest rest' : List Byte}
    (h : d.map (·, rest) = .ok (i, rest')) : d = .ok i ∧ rest = rest' := by
  cases d with
  | error e => cases h
  | ok j => cases h; exact ⟨rfl, rfl⟩

theorem encode_of_decode_bus9 {bytes rest : List Byte} {i : Instr} (h : decode .bus9 bytes = .ok (i, rest)) :
    i.format = .bus9 ∧ encode i ++ rest = bytes := by
  match bytes with
  | [] | [_] => cases h
  | b0 :: b1 :: tail =>
    simp only [decode] at h
    split at h
    case isFalse => cases h
    case isTrue hspare =>
      split at h
      case isFalse hread =>
        obtain ⟨hi, rfl⟩ := map_pair_eq_ok h
        obtain ⟨hformat, hencode⟩ := encode_of_decodeBus hi
        rw [hencode, if_neg hread, busBytes_of_bytes (eq_of_beq hspare)]
        exact ⟨hformat, rfl⟩
      case isTrue hwrite =>
        split at h
        · obtain ⟨hi, rfl⟩ := map_pair_eq_ok h
          obtain ⟨hformat, hencode⟩ := encode_of_decodeBus hi
          rw [hencode, if_pos hwrite, busBytes_of_bytes (eq_of_beq hspare), leBytes_leWord]
          exact ⟨hformat, rfl⟩
        · cases h

/-- Bytes that decode in a format of one word start with a word. -/
theorem eq_leBytes_append_of_decode {fmt : Format} {bytes : List Byte} {a : Instr × List Byte} (hfmt : fmt ≠ .bus9)
    (h : decode fmt bytes = .ok a) : ∃ w rest, bytes = leBytes w ++ rest := by
  match bytes with
  | [] | [_] | [_, _] | [_, _, _] =>
    cases fmt with
    | bus9 => exact absurd rfl hfmt
    | txdW1 | rxdW0 | man32 => cases h
  | b0 :: b1 :: b2 :: b3 :: rest => exact ⟨leWord b0 b1 b2 b3, rest, by rw [leBytes_leWord]; rfl⟩

/-- Settles O7: the bytes are those of a word, or of a command and its data, and that word's command encodes it. -/
theorem encodeOfDecodeIsIdentity : Obligations.EncodeOfDecodeIsIdentity := by
  intro fmt bytes rest i h
  cases fmt with
  | bus9 => exact encode_of_decode_bus9 h
  | txdW1 =>
    obtain ⟨w, tail, rfl⟩ := eq_leBytes_append_of_decode (by decide) h
    rw [decode_txdW1_append] at h
    cases h
    obtain ⟨hformat, hencode⟩ := encode_decodeTxd w
    exact ⟨hformat, by rw [hencode]⟩
  | rxdW0 =>
    obtain ⟨w, tail, rfl⟩ := eq_leBytes_append_of_decode (by decide) h
    rw [decode_rxdW0_append] at h
    cases h
    obtain ⟨hformat, hencode⟩ := encode_decodeRxd w
    exact ⟨hformat, by rw [hencode]⟩
  | man32 =>
    obtain ⟨w, tail, rfl⟩ := eq_leBytes_append_of_decode (by decide) h
    rw [decode_man32_append] at h
    obtain ⟨hi, rfl⟩ := map_pair_eq_ok h
    obtain ⟨hformat, hencode⟩ := encode_of_decodeMan hi
    exact ⟨hformat, by rw [hencode]⟩

/-! ### The management words of R221 -/

theorem setWidth_append_eq_or {m n : Nat} (x : BitVec m) (y : BitVec n) (w : Nat) :
    (x ++ y).setWidth w = x.setWidth w <<< n ||| y.setWidth w := by
  apply BitVec.eq_of_getLsbD_eq
  intro k hk
  by_cases hn : k < n
  · simp [BitVec.getLsbD_append, hk, hn]
  · simp [BitVec.getLsbD_append, hk, hn, BitVec.getLsbD_of_ge y k (Nat.not_lt.1 hn)]

/-- The fields of a management word, one beside the other, are the or of R221's shifts. -/
theorem manFrame_eq_or (op : BitVec 2) (f : ManFields) : manFrame op f =
    (1#32 <<< 30) ||| (op.setWidth 32 <<< 28) ||| (f.phya.setWidth 32 <<< 23) ||| (f.rega.setWidth 32 <<< 18)
      ||| (2#32 <<< 16) ||| f.data.setWidth 32 := by
  rw [manFrame, ← BitVec.setWidth_eq (1#2 ++ op ++ f.phya ++ f.rega ++ 2#2 ++ f.data)]
  simp only [setWidth_append_eq_or, BitVec.shiftLeft_or_distrib, ← BitVec.shiftLeft_add]
  rfl

/-- Settles O49: a management word is a frame of its operation, and the decoder gives a frame's fields back. -/
theorem managementWordsDecodeAsAsked : Obligations.ManagementWordsDecodeAsAsked := by
  intro p r v
  refine ⟨?_, ?_, manFrame_eq_or 1#2 ⟨p, r, v⟩⟩
  all_goals
    rw [manWord, decodeMan_manFrame]
    rfl

/-! ### Words written out -/

/-- Settles O5: each of the nine sequences is decoded. -/
theorem writtenOutWordsDecode : Obligations.WrittenOutWordsDecode :=
  ⟨by decide, by decide, by decide, by decide, by decide, by decide, by decide, by decide, by decide⟩

end Sys2Proof.Machine

/-!
PROOFS. O35: a management frame on the wire (30_encoding.md R223; 44_mdio.md R401, R405, R407, R408).
-/

namespace Sys2Proof.Machine

/-! ### The fixed fields of a legal word -/

/-- A legal word is a management frame of a read or of a write (R222). -/
theorem manFrame_of_manLegal {w : Word} (h : manLegal w = true) : ∃ op f, w = manFrame op f ∧ (op = 2#2 ∨ op = 1#2) := by
  unfold manLegal at h
  split at h
  · next i hi =>
    obtain ⟨op, f, hw, hop⟩ := decodeMan_cases hi
    exact ⟨op, f, hw, hop.imp And.left And.left⟩
  · cases h

theorem isReadFrame_manFrame (op : BitVec 2) (f : ManFields) : isReadFrame (manFrame op f) = (op == 2#2) := by
  obtain ⟨-, -, hop⟩ := manFrame_fixed op f
  rw [isReadFrame, hop]

/-! ### What is driven in one period -/

section Period

variable {w : Word} {k : Nat}

/-- The controller drives every period of a frame but those from period 46 on of a read (R407, R408). -/
theorem controllerDrives_of_driven (hk : k < 64) (h : isReadFrame w = true → k < 46) :
    controllerDrives w k = some (frameBit w k) := by
  have hdriven : (isReadFrame w && decide (46 ≤ k)) = false := by simpa using h
  simp [controllerDrives, hk, hdriven]

theorem controllerDrives_of_released (hr : isReadFrame w = true) (hk : 46 ≤ k) : controllerDrives w k = none := by
  simp [controllerDrives, hr, hk]

/-- The bits of the word follow the 32 bits of 1 (R223). -/
theorem controllerDrives_word (h32 : 32 ≤ k) (hk : k < 64) (h : isReadFrame w = true → k < 46) :
    controllerDrives w k = some (w.getLsbD (63 - k)) := by
  rw [controllerDrives_of_driven hk h, frameBit, if_neg (Nat.not_lt.2 h32)]

theorem phyDrives_of_write (hr : isReadFrame w = false) (v : Half) (k : Nat) : phyDrives w v k = none := by
  simp [phyDrives, hr]

/-- In the data periods of a read the line is the PHY's (R407). -/
theorem lineBit_of_readData (hr : isReadFrame w = true) (v : Half) (h48 : 48 ≤ k) (hk : k < 64) :
    lineBit w v k = some (v.getLsbD (63 - k)) := by
  rw [lineBit, controllerDrives_of_released hr (by omega)]
  simp [phyDrives, hr, h48, hk, show k ≠ 47 by omega]

end Period

/-! ### The parts of a frame -/

/-- After the preamble: the start `01` and the opcode, `10` of a read and `01` of a write (R220, R405). -/
theorem controllerDrives_startAndOpcode {w : Word} (h : manLegal w = true) :
    controllerDrives w 32 = some false ∧ controllerDrives w 33 = some true
      ∧ controllerDrives w 34 = some (isReadFrame w) ∧ controllerDrives w 35 = some (!isReadFrame w) := by
  obtain ⟨op, f, rfl, hop⟩ := manFrame_of_manLegal h
  have hword {k : Nat} (h32 : 32 ≤ k) (hk : k < 46) :
      controllerDrives (manFrame op f) k = some ((manFrame op f).getLsbD (63 - k)) :=
    controllerDrives_word h32 (by omega) fun _ => hk
  rw [hword (by decide) (by decide), hword (by decide) (by decide), hword (by decide) (by decide),
    hword (by decide) (by decide), isReadFrame_manFrame]
  simp only [getLsbD_manFrame]
  rcases hop with rfl | rfl
  · exact ⟨rfl, rfl, rfl, rfl⟩
  · exact ⟨rfl, rfl, rfl, rfl⟩

/-- Of a write the controller also drives the turnaround `10` and the data, and the PHY nothing (R408). -/
theorem wire_of_write {w : Word} (h : manLegal w = true) (hr : isReadFrame w = false) :
    controllerDrives w 46 = some true ∧ controllerDrives w 47 = some false
      ∧ (∀ k, 48 ≤ k → k < 64 → controllerDrives w k = some (w.getLsbD (63 - k))) ∧ ∀ v k, phyDrives w v k = none := by
  obtain ⟨op, f, hw, -⟩ := manFrame_of_manLegal h
  have hword {k : Nat} (h32 : 32 ≤ k) (hk : k < 64) : controllerDrives w k = some (w.getLsbD (63 - k)) :=
    controllerDrives_word h32 hk fun h => absurd h (ne_true_of_eq_false hr)
  refine ⟨?_, ?_, fun k h48 hk => hword (by omega) hk, phyDrives_of_write hr⟩
  all_goals
    rw [hword (by decide) (by decide), hw, getLsbD_manFrame]
    rfl

/-- Of a read the controller releases the line at the turnaround and the PHY drives what follows (R407). -/
theorem wire_of_read {w : Word} (hr : isReadFrame w = true) :
    (∀ k, 46 ≤ k → controllerDrives w k = none)
      ∧ ∀ v, lineBit w v 46 = none ∧ lineBit w v 47 = some false
        ∧ ∀ k, 48 ≤ k → k < 64 → lineBit w v k = some (v.getLsbD (63 - k)) := by
  refine ⟨fun k => controllerDrives_of_released hr, fun v => ⟨?_, ?_, fun k => lineBit_of_readData hr v⟩⟩
  all_goals
    rw [lineBit, controllerDrives_of_released hr (by decide)]
    simp [phyDrives, hr]

/-! ### The bits sampled and `MAN` -/

theorem sampledBits_of_read {w : Word} (hr : isReadFrame w = true) (v : Half) {j : Nat} (hj : j < 16) :
    (sampledBits w v)[j]? = some (some (v.getLsbD (15 - j))) := by
  have hbit := lineBit_of_readData hr v (k := 48 + j) (by omega) (by omega)
  rw [show 63 - (48 + j) = 15 - j by omega] at hbit
  simp [sampledBits, hj, hbit]

/-- The completion of a read puts the PHY's answer into `MAN[15:0]` (R413). -/
theorem getLsbD_man_mdioReadDone (f : ManFields) (s : State) {k : Nat} (hk : k < 16) :
    (mdioReadDone f s).regs.man.getLsbD k = s.draws.phyAnswer.getLsbD k := by
  change (s.draws.word.extractLsb' 16 16 ++ s.draws.phyAnswer).getLsbD k = _
  rw [BitVec.getLsbD_append, if_pos hk]

/-- Settles O35, period by period: the preamble, the fixed fields and the word, the release of a read; then the pins in a
state and the bits a completed read leaves in `MAN`. -/
theorem managementFrameOnTheWire : Obligations.ManagementFrameOnTheWire := by
  refine ⟨fun w hw => ?wire, fun s => ⟨fun hoff => ?off, fun hon => ?on, fun hon hb => ?busy, fun hb hlast hr f => ?sampled⟩⟩
  case wire =>
    obtain ⟨h32, h33, h34, h35⟩ := controllerDrives_startAndOpcode hw
    refine ⟨fun k hk => ?_, h32, h33, h34, h35, fun k h32 hk => controllerDrives_word h32 (by omega) fun _ => hk,
      wire_of_write hw, wire_of_read⟩
    rw [controllerDrives_of_driven (by omega) fun _ => by omega, frameBit, if_pos hk]
  case off => exact ⟨by simp [mdioPin, hoff], by simp [mdcHeld, hoff]⟩
  case on => simp [mdcHeld, hon]
  case busy => simp [mdioPin, hon, hb]
  case sampled =>
    have hdone : exec (.mdioRead f) s = .next (mdioReadDone f s) :=
      mdioPeriod_eq_next.2 (.inr (.inr ⟨hb, hlast.ge, rfl⟩))
    refine ⟨_, hdone, fun j hj => ?_⟩
    rw [sampledBits_of_read hr _ hj, getLsbD_man_mdioReadDone f s (by omega)]

end Sys2Proof.Machine

/-!
PROOFS. O8: the encodings that are refused, each with its reason (30_encoding.md R200, R201, R222; 41_host_registers.md R279).
-/

namespace Sys2Proof.Machine

/-! ### The register map -/

theorem regAt_offset (r : Reg) : regAt r.offset = some r := by
  cases r <;> rfl

theorem regAt_busCommand (write : Bool) (r : Reg) : regAt ((busCommand write r).extractLsb' 0 8) = some r := by
  cases write <;> cases r <;> rfl

/-- The map answers a register exactly at the offsets of the registers (R200). -/
theorem regAt_eq_none_iff {off : BitVec 8} : regAt off = none ↔ off ∉ allRegs.map Reg.offset := by
  constructor
  · intro h hoff
    obtain ⟨r, -, rfl⟩ := List.mem_map.1 hoff
    rw [regAt_offset] at h
    cases h
  · intro h
    cases hr : regAt off with
    | none => rfl
    | some r =>
      have hmem : r ∈ allRegs := List.mem_of_find?_eq_some hr
      exact absurd (List.mem_map.2 ⟨r, hmem, offset_of_regAt hr⟩) h

theorem decodeBus_of_unmapped {cmd : BusCommand} (h : regAt (cmd.extractLsb' 0 8) = none) (v : Word) :
    decodeBus cmd v = .error .unmappedRegister := by
  rw [decodeBus, h]

/-- A write of a register that is not read only decodes (R279). -/
theorem decodeBus_write_eq_ok {r : Reg} (v : Word) (hnsr : r ≠ .nsr) (hisr : r ≠ .isr) (himr : r ≠ .imr) :
    ∃ i, decodeBus (busCommand true r) v = .ok i := by
  cases r with
  | nsr => exact absurd rfl hnsr
  | isr => exact absurd rfl hisr
  | imr => exact absurd rfl himr
  | _ => exact ⟨_, rfl⟩

/-- A read of a register that is not write only decodes (R279). -/
theorem decodeBus_read_eq_ok {r : Reg} (v : Word) (hier : r ≠ .ier) (hidr : r ≠ .idr) :
    ∃ i, decodeBus (busCommand false r) v = .ok i := by
  cases r with
  | ier => exact absurd rfl hier
  | idr => exact absurd rfl hidr
  | _ => exact ⟨_, rfl⟩

/-! ### The management words -/

/-- The decoder refuses a management word for its start, its turnaround or its opcode, and for nothing else (R222). -/
theorem decodeMan_eq_error_iff {w : Word} :
    decodeMan w = .error .manReserved ↔
      w.extractLsb' 30 2 ≠ 1#2 ∨ w.extractLsb' 16 2 ≠ 2#2 ∨ w.extractLsb' 28 2 = 0#2 ∨ w.extractLsb' 28 2 = 3#2 := by
  have hop : ∀ op : BitVec 2, (op = 0#2 ∨ op = 3#2) ↔ op ≠ 2#2 ∧ op ≠ 1#2 := by decide
  rw [hop, decodeMan]
  by_cases hstart : w.extractLsb' 30 2 = 1#2
  case neg => simp [hstart]
  by_cases hturn : w.extractLsb' 16 2 = 2#2
  case neg => simp [hturn]
  by_cases hread : w.extractLsb' 28 2 = 2#2
  · simp [hstart, hturn, hread]
  by_cases hwrite : w.extractLsb' 28 2 = 1#2
  · simp [hstart, hturn, hwrite]
  · simp [hstart, hturn, hread, hwrite]

theorem decodeMan_error {w : Word} {e : DecodeError} (h : decodeMan w = .error e) : e = .manReserved := by
  unfold decodeMan at h
  split at h
  · split at h
    · cases h
    · split at h <;> cases h
      rfl
  · cases h
    rfl

theorem manLegal_of_decodeMan_eq_ok {w : Word} {i : Instr} (h : decodeMan w = .ok i) : manLegal w = true := by
  rw [manLegal, h]

theorem manLegal_eq_false_iff {w : Word} : manLegal w = false ↔ decodeMan w = .error .manReserved := by
  rw [manLegal]
  cases h : decodeMan w with
  | ok i => simp
  | error e => simp [decodeMan_error h]

/-- Settles O8: a listed command is that of its register, which only its direction can refuse; an offset that is not listed
has no register. -/
theorem encodingsOutsideTheTableAreRefused : Obligations.EncodingsOutsideTheTableAreRefused := by
  refine ⟨fun cmd v => ⟨?readOnly, ?writeOnly, ?unmapped, ?decodes⟩, fun w => ⟨decodeMan_eq_error_iff, manLegal_eq_false_iff⟩⟩
  case readOnly => rintro (rfl | rfl | rfl) <;> rfl
  case writeOnly => rintro (rfl | rfl) <;> rfl
  case unmapped => exact fun h => decodeBus_of_unmapped (regAt_eq_none_iff.2 h) v
  case decodes =>
    intro hlisted hnsr hisr himr hier hidr
    obtain ⟨r, hr⟩ := Option.ne_none_iff_exists'.1 fun hnone => regAt_eq_none_iff.1 hnone hlisted
    rw [← busCommand_of_regAt hr] at hnsr hisr himr hier hidr ⊢
    generalize cmd.getLsbD 8 = write at *
    cases write with
    | true =>
      exact decodeBus_write_eq_ok v (fun h => hnsr (h ▸ rfl)) (fun h => hisr (h ▸ rfl)) fun h => himr (h ▸ rfl)
    | false => exact decodeBus_read_eq_ok v (fun h => hier (h ▸ rfl)) fun h => hidr (h ▸ rfl)

end Sys2Proof.Machine

/-!
PROOFS. O44: writes are posted and reads wait (41_host_registers.md R251 to R253, R279).
-/

namespace Sys2Proof.Machine

theorem hostRegWrite_of_decodes {cmd : BusCommand} {v : Word} {i : Instr} {r : Reg} (hi : decodeBus cmd v = .ok i)
    (hr : regAt (cmd.extractLsb' 0 8) = some r) (s : State) :
    hostRegWrite cmd v s = .next (some ({ s with pw := s.pw ++ [(r, v)] }, HostValue.nothing)) := by
  rw [hostRegWrite, hi, hr]

theorem hostRegWrite_of_refused {cmd : BusCommand} {v : Word} {e : DecodeError} (he : decodeBus cmd v = .error e)
    (s : State) : hostRegWrite cmd v s = .refused (refusalOf e) := by
  rw [hostRegWrite, he]

theorem hostRegRead_of_refused {cmd : BusCommand} {e : DecodeError} (he : decodeBus cmd 0 = .error e) (s : State) :
    hostRegRead cmd s = .refused (refusalOf e) := by
  rw [hostRegRead, he]

/-- A read holds while a write is posted (R253). -/
theorem hostRegRead_of_pw_ne_nil {cmd : BusCommand} {i : Instr} {s : State} (hi : decodeBus cmd 0 = .ok i)
    (hp : s.pw ≠ []) : hostRegRead cmd s = .next none := by
  have hempty : ¬s.pw.isEmpty = true := mt List.isEmpty_iff.1 hp
  simp only [hostRegRead, hi, if_neg hempty]

/-- Settles O44: the decoder decides whether the command is refused at issue; a write is then posted, and a read answers
only with `pw` empty. -/
theorem writesArePostedAndReadsWait : Obligations.WritesArePostedAndReadsWait := by
  refine fun r v s => ⟨fun hnsr hisr himr => ?post, ?readOnly, fun hier hidr hp => ?hold, ?writeOnly, fun t x h => ?answer⟩
  case post =>
    obtain ⟨i, hi⟩ := decodeBus_write_eq_ok v hnsr hisr himr
    exact hostRegWrite_of_decodes hi (regAt_busCommand true r) s
  case readOnly =>
    intro hr
    have he : decodeBus (busCommand true r) v = .error .readOnlyRegister := by rcases hr with rfl | rfl | rfl <;> rfl
    exact hostRegWrite_of_refused he s
  case hold =>
    obtain ⟨i, hi⟩ := decodeBus_read_eq_ok 0 hier hidr
    exact hostRegRead_of_pw_ne_nil hi hp
  case writeOnly =>
    intro hr
    have he : decodeBus (busCommand false r) 0 = .error .writeOnlyRegister := by rcases hr with rfl | rfl <;> rfl
    exact hostRegRead_of_refused he s
  case answer =>
    obtain ⟨i, -, -, hp, -, -⟩ := hostRegRead_cases (busCommand_write false r) h
    exact hp

end Sys2Proof.Machine

/-!
PROOFS. O38: what the register operations leave unchanged (41_host_registers.md R251 to R253).
-/

namespace Sys2Proof.Machine

/-- What a performed register write can do: it changes the stored registers, the engines and the controller, and nothing
else (41_host_registers.md R252). -/
theorem exec_write_cases {i : Instr} {s t : State} (hbus : i.format = .bus9) (hw : Instr.isRegRead i = false)
    (h : exec i s = .next t) : ∃ regs tx rx mdio, t = { s with regs := regs, tx := tx, rx := rx, mdio := mdio } := by
  cases i with
  | rdNcr | rdNcfg | rdNsr | rdTsr | rdRbqp | rdTbqp | rdRsr | rdIsr | rdImr | rdMan | rdSa1b | rdSa1t | rdUsrio => cases hw
  | txdStop last f | txdBuf f | txdLast f | rxdFree f | rxdFull f | mdioRead f | mdioWrite f => cases hbus
  | wrTsr v | wrRsr v | wrIer v | wrIdr v | wrSa1t v | wrUsrio v =>
    obtain ⟨-, h⟩ := ifAccepted_eq_next.1 h
    cases h
    exact ⟨_, _, _, _, rfl⟩
  | wrSa1b v =>
    cases h
    exact ⟨_, _, _, _, rfl⟩
  | wrNcr v =>
    obtain ⟨-, h⟩ := ifAccepted_eq_next.1 h
    split at h
    · cases h
    · cases h
      exact ⟨_, _, _, _, writeNcr_eq v s⟩
  | wrNcfg v =>
    obtain ⟨-, h⟩ := ifAccepted_eq_next.1 h
    split at h
    · cases h
    · cases h
      exact ⟨_, _, _, _, rfl⟩
  | wrRbqp v | wrTbqp v =>
    obtain ⟨-, h⟩ := ifQueueAligned_eq_next.1 h
    split at h
    · cases h
    · cases h
      exact ⟨_, _, _, _, rfl⟩
  | wrMan v =>
    simp only [exec, execWrMan] at h
    split at h
    · cases h
    · split at h
      · cases h
        exact ⟨_, _, _, _, rfl⟩
      · split at h
        · cases h
          exact ⟨_, _, _, _, rfl⟩
        · cases h

/-- Settles O38: a read sets the value last read and `RD ISR` clears `ISR`; a write changes registers, engines and
controller. -/
theorem registerOperationsLeaveTheRestAlone : Obligations.RegisterOperationsLeaveTheRestAlone := by
  intro i s t hbus h
  cases hi : Instr.isRegRead i with
  | true =>
    obtain ⟨v, rfl | ⟨rfl, rfl⟩⟩ := exec_read_cases hi h
    · exact ⟨fun _ => rfl, rfl, rfl, rfl, rfl, rfl, rfl, rfl, ⟨rfl, rfl, rfl⟩,
        fun _ => ⟨rfl, rfl, rfl, rfl, fun _ => rfl⟩, nofun⟩
    · exact ⟨fun _ => rfl, rfl, rfl, rfl, rfl, rfl, rfl, rfl, ⟨rfl, rfl, rfl⟩,
        fun _ => ⟨rfl, rfl, rfl, rfl, fun hne => absurd rfl hne⟩, nofun⟩
  | false =>
    obtain ⟨regs, tx, rx, mdio, rfl⟩ := exec_write_cases hbus hi h
    exact ⟨fun _ => rfl, rfl, rfl, rfl, rfl, rfl, rfl, rfl, ⟨rfl, rfl, rfl⟩, nofun, fun _ => rfl⟩

end Sys2Proof.Machine

/-!
PROOFS. O10, O11 and O12: what the register reads return (41_host_registers.md R254 to R277; 44_mdio.md R411).
-/

namespace Sys2Proof.Machine

/-! ### The two registers that are read field by field -/

/-- What the mask of `NCR` keeps is one field, the three enables (R51). -/
theorem and_ncrMask (x : Word) : x &&& 0x1C = 0#27 ++ x.extractLsb' 2 3 ++ 0#2 := by
  have hmask : ∀ k < 32, (0x1C : Word).getLsbD k = decide (2 ≤ k ∧ k < 5) := by decide
  apply BitVec.eq_of_getLsbD_eq
  intro k hk
  rw [BitVec.getLsbD_and, hmask k hk]
  simp only [BitVec.getLsbD_append, BitVec.getLsbD_extractLsb', BitVec.getLsbD_zero]
  grind

theorem append_enables (x : Word) :
    0#27 ++ BitVec.ofBool (x.getLsbD 4) ++ BitVec.ofBool (x.getLsbD 3) ++ BitVec.ofBool (x.getLsbD 2)
      = 0#27 ++ x.extractLsb' 2 3 := by
  apply BitVec.eq_of_getLsbD_eq
  intro k hk
  simp only [BitVec.getLsbD_append, BitVec.getLsbD_extractLsb', BitVec.getLsbD_zero, BitVec.getLsbD_ofBool]
  grind

theorem ncrValue_eq (s : State) : ncrValue s =
    0#27 ++ BitVec.ofBool (mgmtEnabled s) ++ BitVec.ofBool (txEnabled s) ++ BitVec.ofBool (rxEnabled s) ++ 0#2 := by
  rw [ncrValue, and_ncrMask, mgmtEnabled, txEnabled, rxEnabled, append_enables]

theorem ncfgValue_eq (s : State) : ncfgValue s =
    0#20 ++ clkField s.regs.ncfg ++ 0#8 ++ BitVec.ofBool (fullDuplex s) ++ BitVec.ofBool (s.regs.ncfg.getLsbD 0) := by
  have hmask : ∀ k < 32, (0xC03 : Word).getLsbD k = decide (k < 2 ∨ 10 ≤ k ∧ k < 12) := by decide
  apply BitVec.eq_of_getLsbD_eq
  intro k hk
  rw [ncfgValue, BitVec.getLsbD_and, hmask k hk, clkField, fullDuplex]
  simp only [BitVec.getLsbD_append, BitVec.getLsbD_extractLsb', BitVec.getLsbD_zero, BitVec.getLsbD_ofBool]
  grind

/-! ### `TSR` and `ISR` -/

/-- `TGO` reads `tx_state = ACTIVE`, and every other bit is the stored one (R259). -/
theorem getLsbD_tsrValue {s : State} (hr : s.regs.tsr &&& ~~~0x77 = 0) (k : Nat) :
    (tsrValue s).getLsbD k = if k = 3 then decide (s.tx.state = .active) else s.regs.tsr.getLsbD k := by
  have htgo : (if s.tx.state = .active then (0x8 : Word) else 0).getLsbD k
      = (decide (s.tx.state = .active) && decide (3 = k)) := by
    split
    · next ha => rw [show (0x8 : Word) = BitVec.twoPow 32 3 by decide, BitVec.getLsbD_twoPow]; simp [ha]
    · next ha => simp [ha]
  rw [tsrValue, and_mask_eq hr, BitVec.getLsbD_or, htgo]
  split
  · next hk =>
    have h3 : s.regs.tsr.getLsbD 3 = false := and_eq_zero_iff.1 hr 3 (by decide)
    rw [hk, h3, Bool.false_or, decide_eq_true rfl, Bool.and_true]
  · next hk => rw [decide_eq_false (Ne.symm hk), Bool.and_false, Bool.or_false]

/-- The implemented causes hold every bit `ISR` can have (R58). -/
theorem isrValue_eq {s : State} (hr : s.regs.isr &&& ~~~0x4FF = 0) : isrValue s = s.regs.isr := by
  have hsub : ∀ k < 32, (~~~0xCFF : Word).getLsbD k = true → (~~~0x4FF : Word).getLsbD k = true := by decide
  refine and_mask_eq (and_eq_zero_iff.2 fun k hk => and_eq_zero_iff.1 hr k (hsub k ?_ hk))
  exact BitVec.lt_of_getLsbD hk

theorem returnRead_of_eq {v w : Word} (s : State) (h : v = w) : returnRead s v = .next { s with rdata := w } := by
  rw [returnRead, h]

/-- Settles O10: each read returns its value, which the reserved bits being 0 makes the stored word. -/
theorem registerReadsReturnTheirFields : Obligations.RegisterReadsReturnTheirFields := by
  intro s hr
  obtain ⟨-, -, htsr, hrsr, -, himask, hsa1t, husrio⟩ := hr
  refine ⟨returnRead_of_eq s (ncrValue_eq s), returnRead_of_eq s (ncfgValue_eq s),
    ⟨tsrValue s, rfl, ?tgo, fun k hk => ?tsr⟩, rfl, rfl, returnRead_of_eq s (and_mask_eq hrsr),
    returnRead_of_eq s (and_mask_eq himask), rfl, returnRead_of_eq s (and_mask_eq hsa1t),
    returnRead_of_eq s (and_mask_eq husrio)⟩
  case tgo => rw [getLsbD_tsrValue htsr, if_pos rfl, decide_eq_true_iff]
  case tsr => rw [getLsbD_tsrValue htsr, if_neg hk]

/-- Settles O11: the bits of `NSR`'s value, and the two cases of `MAN`'s. -/
theorem drawnReadsReturnTheirDraws : Obligations.DrawnReadsReturnTheirDraws := by
  refine fun s => ⟨⟨nsrValue s, rfl, ?idle, ?pin, fun k h1 h2 => ?other⟩, fun hb => ?stored, fun hb => ?drawn⟩
  case idle => rw [getLsbD_nsrValue]; rfl
  case pin => rw [getLsbD_nsrValue]; rfl
  case other => rw [getLsbD_nsrValue, if_neg h1, if_neg h2]
  case stored => exact returnRead_of_eq s (by rw [manValue, hb]; rfl)
  case drawn => exact returnRead_of_eq s (by rw [manValue, hb]; rfl)

/-- Settles O12: `ISR` is all implemented causes, and with `ISR = 0` none is pending. -/
theorem isrReadReturnsAndClears : Obligations.IsrReadReturnsAndClears := by
  intro s hr
  obtain ⟨-, -, -, -, hisr, -, -, -⟩ := hr
  refine ⟨_, rfl, ?value, ?line, ?again⟩
  case value => rw [isrValue_eq hisr]
  case line => simp [irqLine]
  case again => simp [exec, execRdIsr, returnRead, isrValue]

end Sys2Proof.Machine

/-!
PROOFS. O13 to O18: what the register writes do when they are performed (41_host_registers.md R255 to R278).
-/

namespace Sys2Proof.Machine

/-! ### Reserved bits as fields -/

/-- A word has no bit under a mask exactly if its fields there are 0. -/
theorem and_eq_zero_iff_fields {x m : Word} (fields : List (Nat × Nat))
    (hm : ∀ k < 32, m.getLsbD k = true ↔ ∃ f ∈ fields, f.1 ≤ k ∧ k < f.1 + f.2) :
    x &&& m = 0 ↔ ∀ f ∈ fields, x.extractLsb' f.1 f.2 = 0#f.2 := by
  simp only [and_eq_zero_iff, extractLsb'_eq_zero_iff]
  constructor
  · intro h f hf k hlo hhi
    by_cases hk : k < 32
    · exact h k ((hm k hk).2 ⟨f, hf, hlo, hhi⟩)
    · exact BitVec.getLsbD_of_ge _ _ (by omega)
  · intro h k hmk
    obtain ⟨f, hf, hlo, hhi⟩ := (hm k (BitVec.lt_of_getLsbD hmk)).1 hmk
    exact h f hf k hlo hhi

/-- The reserved-bit test of a write (R64) in the fields of the register. -/
theorem accepts_iff_fields {r : Reg} {v : Word} (fields : List (Nat × Nat))
    (hm : ∀ k < 32, (~~~r.writable).getLsbD k = true ↔ ∃ f ∈ fields, f.1 ≤ k ∧ k < f.1 + f.2) :
    Reg.accepts r v = true ↔ ∀ f ∈ fields, v.extractLsb' f.1 f.2 = 0#f.2 := by
  rw [Reg.accepts, beq_iff_eq, and_eq_zero_iff_fields fields hm]

section Fields

variable {v : Word}

theorem accepts_ncr_iff : Reg.accepts .ncr v = true ↔
    v.extractLsb' 0 2 = 0#2 ∧ v.extractLsb' 5 4 = 0#4 ∧ v.extractLsb' 10 22 = 0#22 := by
  simpa using accepts_iff_fields (r := .ncr) (v := v) [(0, 2), (5, 4), (10, 22)] (by decide)

theorem accepts_ncfg_iff : Reg.accepts .ncfg v = true ↔ v.extractLsb' 2 8 = 0#8 ∧ v.extractLsb' 12 20 = 0#20 := by
  simpa using accepts_iff_fields (r := .ncfg) (v := v) [(2, 8), (12, 20)] (by decide)

theorem accepts_tsr_iff : Reg.accepts .tsr v = true ↔ v.extractLsb' 7 25 = 0#25 := by
  simpa using accepts_iff_fields (r := .tsr) (v := v) [(7, 25)] (by decide)

theorem accepts_rsr_iff : Reg.accepts .rsr v = true ↔ v.extractLsb' 3 29 = 0#29 := by
  simpa using accepts_iff_fields (r := .rsr) (v := v) [(3, 29)] (by decide)

theorem accepts_sa1t_iff : Reg.accepts .sa1t v = true ↔ v.extractLsb' 16 16 = 0#16 := by
  simpa using accepts_iff_fields (r := .sa1t) (v := v) [(16, 16)] (by decide)

theorem accepts_usrio_iff : Reg.accepts .usrio v = true ↔ v.extractLsb' 2 30 = 0#30 := by
  simpa using accepts_iff_fields (r := .usrio) (v := v) [(2, 30)] (by decide)

theorem queueAligned_iff : queueAligned v = true ↔ v.extractLsb' 0 3 = 0#3 := by
  rw [queueAligned, beq_iff_eq]
  simpa using and_eq_zero_iff_fields (x := v) (m := 0x7) [(0, 3)] (by decide)

end Fields

theorem ifQueueAligned_of_aligned {v : Word} {k : Result State} (h : queueAligned v = true) : ifQueueAligned v k = k := by
  rw [ifQueueAligned, if_pos h]

theorem ifQueueAligned_of_not_aligned {v : Word} {k : Result State} (h : queueAligned v ≠ true) :
    ifQueueAligned v k = .fault .misalignedQueue := by
  rw [ifQueueAligned, if_neg h]

/-! ### The bits cleared and set -/

theorem getLsbD_and_not (x y : Word) (k : Nat) : (x &&& ~~~y).getLsbD k = (x.getLsbD k && !y.getLsbD k) := by
  rw [BitVec.getLsbD_and, BitVec.getLsbD_not]
  by_cases hk : k < 32
  · simp [hk]
  · simp [BitVec.getLsbD_of_ge x k (by omega)]

theorem getLsbD_writeOneToClear (old v mask : Word) (k : Nat) : (writeOneToClear old v mask).getLsbD k =
    (old.getLsbD k && !(v.getLsbD k && mask.getLsbD k)) := by
  rw [writeOneToClear, getLsbD_and_not, BitVec.getLsbD_and]

/-- Where the written word is within the first `n` bits, a mask is known by these bits. -/
theorem getLsbD_and_mask_congr {v mask : Word} {n m : Nat} {p : Nat → Bool} (hv : v.extractLsb' n m = 0#m)
    (hn : n + m = 32) (hmask : ∀ k < n, mask.getLsbD k = p k) (k : Nat) :
    (v.getLsbD k && mask.getLsbD k) = (v.getLsbD k && p k) := by
  by_cases hk : k < n
  · rw [hmask k hk]
  · have hbit : v.getLsbD k = false := by
      by_cases h32 : k < 32
      · exact extractLsb'_eq_zero_iff.1 hv k (by omega) (by omega)
      · exact BitVec.getLsbD_of_ge _ _ (by omega)
    rw [hbit, Bool.false_and, Bool.false_and]

/-! ### The writes -/

/-- Settles O13: the three checks in their order, and `writeNcr_eq`. -/
theorem ncrWriteControlsTheEngines : Obligations.NcrWriteControlsTheEngines := by
  intro v s reserved hazard
  have haccepts : Reg.accepts .ncr v = true ↔ ¬reserved := by
    rw [accepts_ncr_iff]
    simp only [reserved, not_or, not_not]
  have hhazard : (mgmtEnabled s && !v.getLsbD 4 && s.mdio.busy) = true ↔ hazard := by
    simp only [hazard, Bool.and_eq_true, Bool.not_eq_true', and_assoc]
  refine ⟨fun hres => ?refused, fun hres hhaz => ?fault, fun hres hhaz => ?next⟩
  case refused => exact ifAccepted_of_not_accepts fun ha => haccepts.1 ha hres
  case fault => exact (ifAccepted_of_accepts (haccepts.2 hres)).trans (if_pos (hhazard.2 hhaz))
  case next =>
    refine ((ifAccepted_of_accepts (haccepts.2 hres)).trans (if_neg (mt hhazard.1 hhaz))).trans ?_
    rw [writeNcr_eq, and_ncrMask]
    simp only [ncrRx, ncrTx, Bool.and_eq_true, Bool.not_eq_true', decide_eq_true_eq, and_assoc]

/-- Settles O14: a reserved bit refuses each write that has one, a change of `CLK` in a frame faults, and the word is stored. -/
theorem configurationWritesStore : Obligations.ConfigurationWritesStore := by
  intro v s reserved hazard
  have haccepts : Reg.accepts .ncfg v = true ↔ ¬reserved := by
    rw [accepts_ncfg_iff]
    simp only [reserved, not_or, not_not]
  have hhazard : (s.mdio.busy && clkField v != clkField s.regs.ncfg) = true ↔ hazard := by
    simp only [hazard, clkField, Bool.and_eq_true, bne_iff_ne]
  refine ⟨fun hres => ?refused, fun hres hhaz => ?fault, fun hres hhaz => ?next, rfl, fun h => ?top, fun h => ?storeTop,
    fun h => ?usrio, fun h => ?storeUsrio⟩
  case refused => exact ifAccepted_of_not_accepts fun ha => haccepts.1 ha hres
  case fault => exact (ifAccepted_of_accepts (haccepts.2 hres)).trans (if_pos (hhazard.2 hhaz))
  case next => exact (ifAccepted_of_accepts (haccepts.2 hres)).trans (if_neg (mt hhazard.1 hhaz))
  case top => exact ifAccepted_of_not_accepts (mt accepts_sa1t_iff.1 h)
  case storeTop => exact ifAccepted_of_accepts (accepts_sa1t_iff.2 h)
  case usrio => exact ifAccepted_of_not_accepts (mt accepts_usrio_iff.1 h)
  case storeUsrio => exact ifAccepted_of_accepts (accepts_usrio_iff.2 h)

/-- Settles O15: the word is within the register, where the mask of `TSR` is every bit but 3 and that of `RSR` every bit. -/
theorem statusWritesClearTheWrittenOnes : Obligations.StatusWritesClearTheWrittenOnes := by
  refine fun v s => ⟨fun h => ?tsrRefused, fun h => ⟨_, ifAccepted_of_accepts (accepts_tsr_iff.2 h), fun k => ?tsr⟩,
    fun h => ?rsrRefused, fun h => ⟨_, ifAccepted_of_accepts (accepts_rsr_iff.2 h), fun k => ?rsr⟩⟩
  case tsrRefused => exact ifAccepted_of_not_accepts (mt accepts_tsr_iff.1 h)
  case tsr =>
    rw [getLsbD_writeOneToClear, getLsbD_and_mask_congr (p := fun k => decide (k ≠ 3)) h rfl (by decide)]
  case rsrRefused => exact ifAccepted_of_not_accepts (mt accepts_rsr_iff.1 h)
  case rsr =>
    rw [getLsbD_writeOneToClear, getLsbD_and_mask_congr (p := fun _ => true) h rfl (by decide), Bool.and_true]

/-- Settles O16: the value's alignment is tested first, then the engine, and the write sets both pointers. -/
theorem queuePointerWritesSetBaseAndPointer : Obligations.QueuePointerWritesSetBaseAndPointer := by
  refine fun v s => ⟨fun h => ⟨?rbqp, ?tbqp⟩, fun h hrun => ?receiving, fun h hre hidle => ?setRx, fun h ha => ?transmitting,
    fun h hidle => ?setTx⟩
  case rbqp => exact ifQueueAligned_of_not_aligned (mt queueAligned_iff.1 h)
  case tbqp => exact ifQueueAligned_of_not_aligned (mt queueAligned_iff.1 h)
  case receiving => exact (ifQueueAligned_of_aligned (queueAligned_iff.2 h)).trans (if_pos (receptionCanRun_iff.2 hrun))
  case setRx =>
    refine (ifQueueAligned_of_aligned (queueAligned_iff.2 h)).trans (if_neg ?_)
    rw [hre, hidle]
    decide
  case transmitting => exact (ifQueueAligned_of_aligned (queueAligned_iff.2 h)).trans (if_pos ha)
  case setTx =>
    refine (ifQueueAligned_of_aligned (queueAligned_iff.2 h)).trans (if_neg ?_)
    rw [hidle]
    decide

/-- Settles O17: both writes test the same reserved bits; the bits of the new mask are read off. -/
theorem maskWritesUnmaskAndMask : Obligations.MaskWritesUnmaskAndMask := by
  intro v s
  have hier : Reg.accepts .ier v = true ↔ v &&& ~~~0xCFF = 0 := beq_iff_eq
  have hidr : Reg.accepts .idr v = true ↔ v &&& ~~~0xCFF = 0 := beq_iff_eq
  refine ⟨fun h => ⟨?ierRefused, ?idrRefused⟩, fun h => ⟨⟨_, ifAccepted_of_accepts (hier.2 h), fun k => ?unmask⟩,
    ⟨_, ifAccepted_of_accepts (hidr.2 h), fun k => ?mask⟩⟩⟩
  case ierRefused => exact ifAccepted_of_not_accepts (mt hier.1 h)
  case idrRefused => exact ifAccepted_of_not_accepts (mt hidr.1 h)
  case unmask => exact getLsbD_and_not s.regs.imask v k
  case mask => exact BitVec.getLsbD_or

/-- Settles O18: busy, then `MPE`, then the encoding. -/
theorem manWriteStoresOrStartsAFrame : Obligations.ManWriteStoresOrStartsAFrame := by
  refine fun v s => ⟨fun hb => ?busy, fun hb hoff => ?store, fun hb hon hbad => ?refused, fun hb hon ⟨i, hi⟩ => ?start⟩
  case busy => simp [exec, execWrMan, hb]
  case store => simp [exec, execWrMan, hb, hoff]
  case refused => simp [exec, execWrMan, hb, hon, manLegal_eq_false_iff.2 hbad]
  case start => simp [exec, execWrMan, hb, hon, manLegal_of_decodeMan_eq_ok hi, mdioStart]

end Sys2Proof.Machine

/-!
PROOFS. O19 to O23, O25 and O26: the TX descriptor forms (42_tx_engine.md R300 to R318), and an engine that holds (R300;
43_rx_engine.md R350; 44_mdio.md R400).
-/

namespace Sys2Proof.Machine

/-! ### Gathering and advancing (42_tx_engine.md R305, R307) -/

theorem gather_txBytes (f : TxFields) (s : State) :
    gather s (txBytes f s) = { first := txFirst s, bytes := txGathered f s } := by
  unfold gather txFirst txGathered
  cases s.tx.frame <;> rfl

theorem advance_of_not_top {base ptr : Word} {wrap : Bool} (h : wrap = true ∨ ptr ≠ 0xFFFFFFF8) :
    advance base ptr wrap = some (if wrap then base else ptr + 8) := by
  refine advance_eq_some.2 ?_
  cases wrap with
  | true => exact .inl ⟨rfl, rfl⟩
  | false => exact .inr ⟨rfl, h.resolve_left nofun, rfl⟩

/-- Settles O19: the checks pass and the advance exists, so the step is the gathering one. -/
theorem txdBufGathersAndAdvances : Obligations.TxdBufGathersAndAdvances := by
  intro f s ⟨hactive, hchecked⟩ htop
  refine execTxdBuf_eq_next.2 (.inr ⟨hactive, hchecked, _, advance_of_not_top htop, ?_⟩)
  rw [← gather_txBytes f s]
  rfl

/-! ### Where the pointer goes after a frame (42_tx_engine.md R312, R315) -/

/-- A delivery advances, and so does an error with `HOLD`. -/
theorem pointerAfterLast_of_advancing {s : State} {wrap : Bool} {o : TxOutcome}
    (h : delivered o = true ∨ s.cfg.txErrPtr = .hold) :
    pointerAfterLast s wrap o = advance s.tx.base s.tx.ptr wrap := by
  unfold pointerAfterLast
  rcases h with h | h
  · rw [if_pos h]
  · rw [h, ite_self]

/-- An error with `RESET_TO_BASE` does not advance. -/
theorem pointerAfterLast_of_reset {s : State} {wrap : Bool} {o : TxOutcome} (ho : delivered o = false)
    (hc : s.cfg.txErrPtr = .resetToBase) : pointerAfterLast s wrap o = some s.tx.base := by
  rw [pointerAfterLast, ho, hc]
  rfl

/-! ### The completion write (42_tx_engine.md R311, R312, R316) -/

theorem readWord_finishFrame (s : State) (fr : TxFrame) (o : TxOutcome) :
    readWord (finishFrame s fr o).mem (fr.first + 4) = readWord s.mem (fr.first + 4) ||| outcomeDescBits o := by
  rw [finishFrame_mem, readWord_writeWord_same]

/-- A checked `TXD_LAST` answers the completed frame, if the pointer has somewhere to go. -/
theorem exec_txdLast_of_processable {f : TxFields} {s : State} {p : Word} (h : TxProcessable f s)
    (hfirst : descriptorOk s.cfg (txFirst s) = true)
    (hp : pointerAfterLast s f.wrap (mediumOutcome (fullDuplex s) s.draws.outcome) = some p) :
    exec (.txdLast f) s = .next (afterLast s { first := txFirst s, bytes := txGathered f s }
      (mediumOutcome (fullDuplex s) s.draws.outcome) p) := by
  obtain ⟨hactive, hchecked⟩ := h
  rw [← gather_txBytes]
  refine execTxdLast_eq_next.2 (.inr ⟨hactive, hchecked, p, hp, ?_, rfl⟩)
  rwa [gather_first]

/-- Settles O20: the pointer advances after a delivery or with `HOLD`, and goes to the base otherwise; the rest is read off
the completed frame, outcome by outcome. -/
theorem txdLastCompletesTheFrame : Obligations.TxdLastCompletesTheFrame := by
  intro f s o hproc hfirst ho htop next afterError w1
  have hnext : delivered o = true ∨ s.cfg.txErrPtr = .hold → pointerAfterLast s f.wrap o = some next := fun hadv => by
    rw [pointerAfterLast_of_advancing hadv]
    refine advance_of_not_top (htop.imp_right (Or.resolve_right · ?_))
    rintro ⟨rfl | rfl, hreset⟩ <;> simp [hreset, delivered] at hadv
  have hp : pointerAfterLast s f.wrap o = some (if delivered o then next else afterError) := by
    cases hd : delivered o with
    | true => exact hnext (.inl hd)
    | false =>
      cases hc : s.cfg.txErrPtr with
      | resetToBase => simp only [pointerAfterLast_of_reset hd hc, afterError, hc]; rfl
      | hold => simp only [hnext (.inr hc), afterError, hc]; rfl
  have hword := readWord_finishFrame s { first := txFirst s, bytes := txGathered f s } o
  subst ho
  refine ⟨_, exec_txdLast_of_processable hproc hfirst hp, rfl, rfl, rfl, ?_⟩
  generalize mediumOutcome (fullDuplex s) s.draws.outcome = o at hword ⊢
  refine ⟨?ok, ?okCol, ?und, ?rle⟩
  all_goals
    rintro rfl
    exact ⟨hword, rfl, rfl, rfl, rfl⟩

/-- Settles O21: each draw's outcome is allowed, and each allowed outcome is its own draw's. -/
theorem mediumOutcomesAreTheAllowedOnes : Obligations.MediumOutcomesAreTheAllowedOnes := by
  refine ⟨fun o => ⟨?full, fun h => ⟨o, ?fullDrawn⟩⟩, fun o => ⟨?half, fun h => ⟨o, ?halfDrawn⟩⟩⟩
  case full =>
    rintro ⟨d, rfl⟩
    cases d <;> decide
  case fullDrawn =>
    rcases h with rfl | rfl
    all_goals rfl
  case half =>
    rintro ⟨d, rfl⟩
    cases d <;> decide
  case halfDrawn =>
    rcases h with rfl | rfl | rfl | rfl
    all_goals rfl

/-- Settles O22: the frame gathered so far decides between the two stops. -/
theorem txdStopEndsARunOrCutsAFrame : Obligations.TxdStopEndsARunOrCutsAFrame := by
  intro last f s hactive
  refine ⟨fun hnone => ?boundary, fun fr hfr hfirst => ?midFrame⟩
  case boundary => exact (execTxdStop_eq_next (last := last) (f := f)).2 (.inr (.inl ⟨hactive, hnone, rfl⟩))
  case midFrame =>
    have hexec : exec (.txdStop last f) s = .next (stopMidFrame s fr) :=
      (execTxdStop_eq_next (last := last) (f := f)).2 (.inr (.inr ⟨hactive, fr, hfr, hfirst, rfl⟩))
    refine ⟨_, hexec, rfl, ?word1, rfl, rfl, rfl, rfl, rfl, fun hc => ?reset, fun hc => ?hold⟩
    case word1 =>
      rw [BitVec.or_assoc]
      exact readWord_finishFrame s fr .bex
    case reset => simp only [stopMidFrame, hc]
    case hold => simp only [stopMidFrame, hc]

/-! ### The checks on an owned descriptor (42_tx_engine.md R304, R306) -/

theorem txFields_wf_eq_false_iff {f : TxFields} : f.wf = false ↔ f.len = 0 ∨ f.resLow ≠ 0 ∨ f.resHigh ≠ 0 := by
  simp only [TxFields.wf, Bool.and_eq_false_iff, bne_eq_false_iff_eq, beq_eq_false_iff_ne, or_assoc]

theorem admitsRange_eq_false_iff {c : Config} {a : Word} {n : Nat} :
    admitsRange c a n = false ↔ ∃ k, k < n ∧ admits c (a.toNat + k) = false := by
  simp [admitsRange]

theorem and_three_eq_zero_iff_field {w : Word} : w &&& 0x3 = 0 ↔ w.extractLsb' 0 2 = 0#2 := by
  simpa using and_eq_zero_iff_fields (x := w) (m := 0x3) [(0, 2)] (by decide)

theorem txData_of_reserved {f : TxFields} {s : State} (h : f.wf = false) :
    txData f s = .refused .txDescriptorReserved := by
  rw [txData, h]
  rfl

theorem txData_of_bad {f : TxFields} {s : State} (hwf : f.wf = true)
    (h : descriptorOk s.cfg s.tx.ptr = false ∨ readWord s.mem s.tx.ptr &&& 0x3 ≠ 0
      ∨ admitsRange s.cfg (readWord s.mem s.tx.ptr) f.len.toNat = false) : txData f s = .fault .misalignedDma := by
  unfold txData
  rw [hwf, if_neg (by decide)]
  split
  · rfl
  · next hdesc =>
    split
    · rfl
    · next hlow =>
      rcases h with h | h | h
      · simp [h] at hdesc
      · exact absurd h (by simpa using hlow)
      · rw [h]
        rfl

/-- Both owned forms begin with the checks. -/
theorem exec_owned_of_active {f : TxFields} {s : State} (h : s.tx.state = .active) :
    (∃ k, exec (.txdBuf f) s = andThen (txData f s) k) ∧ ∃ k, exec (.txdLast f) s = andThen (txData f s) k :=
  ⟨⟨_, whileActive_of_active h⟩, ⟨_, whileActive_of_active h⟩⟩

theorem txFetch_of_bad {s : State} (h : admitsRange s.cfg (s.tx.ptr + 4) 4 = false ∨ s.tx.ptr &&& 0x7 ≠ 0) :
    txFetch s = .fault .misalignedDma := by
  refine if_neg ?_
  rw [Bool.and_eq_true, beq_iff_eq]
  rintro ⟨hptr, hadm⟩
  rcases h with h | h
  · rw [h] at hadm
    cases hadm
  · exact h hptr

theorem agentStep_txe_of_active {s : State} (h : s.tx.state = .active) :
    agentStep .txe s = andThen (txFetch s) fun w1 => exec (decodeTxd w1) s := if_pos h

/-- Settles O23: each condition is one of the checks both forms begin with, or of the fetch. -/
theorem ownedTxDescriptorsAreChecked : Obligations.OwnedTxDescriptorsAreChecked := by
  intro f s hactive reserved bad
  obtain ⟨⟨k, hbuf⟩, l, hlast⟩ := exec_owned_of_active (f := f) hactive
  refine ⟨fun hres => ?reserved, fun hres hbad => ?bad, fun hfetch => ?fetch⟩
  case reserved =>
    rw [hbuf, hlast, txData_of_reserved (txFields_wf_eq_false_iff.2 hres)]
    exact ⟨rfl, rfl⟩
  case bad =>
    have hwf : f.wf = true := eq_true_of_ne_false (mt txFields_wf_eq_false_iff.1 hres)
    have hbad := hbad.imp_right (Or.imp (mt and_three_eq_zero_iff_field.1) admitsRange_eq_false_iff.2)
    rw [hbuf, hlast, txData_of_bad hwf hbad]
    exact ⟨rfl, rfl⟩
  case fetch =>
    rw [agentStep_txe_of_active hactive, txFetch_of_bad (hfetch.imp_left admitsRange_eq_false_iff.2)]
    rfl

/-! ### What a TX form may change (42_tx_engine.md R318) -/

theorem txForm_cases {i : Instr} (h : i.format = .txdW1) :
    (∃ last f, i = .txdStop last f) ∨ (∃ f, i = .txdBuf f) ∨ ∃ f, i = .txdLast f := by
  cases i with
  | txdStop last f => exact .inl ⟨last, f, rfl⟩
  | txdBuf f => exact .inr (.inl ⟨f, rfl⟩)
  | txdLast f => exact .inr (.inr ⟨f, rfl⟩)
  | _ => nomatch h

/-- Memory is as before but for the completion write of an outcome, if there is one. -/
def CompletionOnly (s t : State) : Prop :=
  t.mem = s.mem ∨ ∃ o, t.mem =
    writeWord s.mem (txFirst s + 4) (readWord s.mem (txFirst s + 4) ||| outcomeDescBits o)

/-- All but memory, `TSR`, `ISR`, the history and the TX engine's place in its run is as before. -/
def TxRestSame (s t : State) : Prop :=
  t = { s with
    mem := t.mem
    regs := { s.regs with tsr := t.regs.tsr, isr := t.regs.isr }
    tx := { t.tx with base := s.tx.base }
    events := t.events }

theorem exec_txdBuf_frame {f : TxFields} {s t : State} (h : exec (.txdBuf f) s = .next t) :
    t.mem = s.mem ∧ t.regs = s.regs ∧ t.events = s.events ∧ TxRestSame s t := by
  rcases execTxdBuf_eq_next.1 h with ⟨-, rfl⟩ | ⟨-, -, p, -, rfl⟩
  all_goals exact ⟨rfl, rfl, rfl, rfl⟩

theorem exec_txForm_frame {i : Instr} {s t : State} (hi : i.format = .txdW1) (h : exec i s = .next t) :
    CompletionOnly s t ∧ TxRestSame s t := by
  obtain ⟨last, f, rfl⟩ | ⟨f, rfl⟩ | ⟨f, rfl⟩ := txForm_cases hi
  · rcases (execTxdStop_eq_next (last := last) (f := f)).1 h with ⟨-, rfl⟩ | ⟨-, -, rfl⟩ | ⟨-, fr, hfr, -, rfl⟩
    · exact ⟨.inl rfl, rfl⟩
    · exact ⟨.inl rfl, rfl⟩
    · have hfirst : txFirst s = fr.first := by rw [txFirst, hfr]
      exact ⟨.inr ⟨.bex, by rw [hfirst]; rfl⟩, rfl⟩
  · obtain ⟨hmem, -, -, hrest⟩ := exec_txdBuf_frame h
    exact ⟨.inl hmem, hrest⟩
  · rcases execTxdLast_eq_next.1 h with ⟨-, rfl⟩ | ⟨-, -, p, -, -, rfl⟩
    · exact ⟨.inl rfl, rfl⟩
    · exact ⟨.inr ⟨_, by rw [← gather_first]; rfl⟩, rfl⟩

theorem completionOnly_sameMemoryOutside {s t : State} (h : CompletionOnly s t) :
    SameMemoryOutside s t (txFirst s + 4) 4 := by
  intro a ha
  rcases h with h | ⟨o, h⟩
  · rw [h]
  · rw [h, readByte_writeWord_of_not_inSpan _ _ ha]

theorem outcomeDescBits_and_not (o : TxOutcome) : outcomeDescBits o &&& ~~~0xB8000000 = 0 := by
  cases o <;> rfl

/-- The completion sets only `USED`, `BEX`, `UND` and `RLE`, and clears nothing. -/
theorem completionOnly_word1 {s t : State} (h : CompletionOnly s t) :
    ∃ m : Word, readWord t.mem (txFirst s + 4) = readWord s.mem (txFirst s + 4) ||| m ∧ m &&& ~~~0xB8000000 = 0 := by
  rcases h with h | ⟨o, h⟩
  · exact ⟨0, by rw [h]; exact BitVec.or_zero.symm, BitVec.zero_and⟩
  · exact ⟨outcomeDescBits o, by rw [h, readWord_writeWord_same], outcomeDescBits_and_not o⟩

/-- Settles O25: memory has the completion write at most, and the rest is read off the frame of the step. -/
theorem txFormsLeaveTheRestAlone : Obligations.TxFormsLeaveTheRestAlone := by
  intro i s t hi h
  obtain ⟨hmem, hrest⟩ := exec_txForm_frame hi h
  have hbuf : (∃ f, i = .txdBuf f) → SameMemory s t ∧ t.regs = s.regs ∧ t.events = s.events := by
    rintro ⟨f, rfl⟩
    obtain ⟨hm, hr, he, -⟩ := exec_txdBuf_frame h
    exact ⟨fun a => by rw [hm], hr, he⟩
  refine ⟨completionOnly_sameMemoryOutside hmem, completionOnly_word1 hmem, ?_, ?_, ?_, ?_, ?_, ?_, ?_, hbuf⟩
  all_goals rw [hrest]
  · exact ⟨rfl, rfl, rfl, rfl, rfl, rfl, rfl⟩
  · exact ⟨rfl, rfl, rfl, rfl, rfl, rfl, rfl⟩
  · exact ⟨rfl, rfl, rfl⟩

/-! ### Engines that hold (42_tx_engine.md R300, 43_rx_engine.md R350, 44_mdio.md R400) -/

theorem whileActive_of_idle {s : State} {k : Result State} (h : s.tx.state = .idle) : whileActive s k = .next s :=
  whileActive_eq_next.2 (.inr ⟨h, rfl⟩)

theorem whileReceiving_of_disabled {s : State} {k : RxFrame → Result State}
    (h : rxEnabled s = false ∨ s.rx.state = .idle) : whileReceiving s k = .next s :=
  whileReceiving_eq_next.2 (.inr ⟨h.symm, rfl⟩)

theorem mdioPeriod_of_not_busy {s k : State} (h : s.mdio.busy = false) : mdioPeriod s k = .next s :=
  mdioPeriod_eq_next.2 (.inl ⟨h, rfl⟩)

/-- Settles O26: every form of an engine is run under that engine's gate. -/
theorem disabledEnginesHold : Obligations.DisabledEnginesHold := by
  intro i s
  refine ⟨fun hi h => ?tx, fun hi h => ?rx, fun hi h => ?mdio⟩
  case tx =>
    obtain ⟨last, f, rfl⟩ | ⟨f, rfl⟩ | ⟨f, rfl⟩ := txForm_cases hi
    all_goals exact whileActive_of_idle h
  case rx =>
    cases i with
    | rxdFree f | rxdFull f => exact whileReceiving_of_disabled h
    | _ => nomatch hi
  case mdio =>
    cases i with
    | mdioRead f | mdioWrite f => exact mdioPeriod_of_not_busy h
    | _ => nomatch hi

end Sys2Proof.Machine

/-!
PROOFS. O27 and O29 to O33: the RX descriptor forms and the medium's steps (43_rx_engine.md R352 to R364).
-/

namespace Sys2Proof.Machine

/-! ### A filled buffer (43_rx_engine.md R355 to R358) -/

theorem whileReceiving_of_receiving {s : State} {g : RxFrame} {k : RxFrame → Result State}
    (hg : s.rx.state = .frame g) (he : rxEnabled s = true) : whileReceiving s k = k g := by
  rw [whileReceiving, hg]
  exact if_pos he

/-- Handing a buffer over sets `OWN` and nothing else of word 0 (R356). -/
theorem rxWord_or_one (own : Bool) (f : RxFields) : rxWord own f ||| 1 = rxWord true f := by
  have hone : ∀ k < 32, (1 : Word).getLsbD k = decide (k = 0) := by decide
  apply BitVec.eq_of_getLsbD_eq
  intro k hk
  rw [BitVec.getLsbD_or, hone k hk, getLsbD_rxWord, getLsbD_rxWord]
  by_cases h0 : k = 0
  · simp [h0]
  · simp [h0]

theorem rxStatusWord_eq (total : Nat) (first last : Bool) : rxStatusWord total first last =
    (if last then BitVec.ofNat 32 total else 0) ||| (if first then 0x4000 else 0) ||| (if last then 0x8000 else 0) := by
  cases first <;> cases last <;> rfl

/-- The two ends of `RXD_FREE` as one state. -/
theorem afterFill_eq (f : RxFields) (s : State) (g : RxFrame) (p : Word) : afterFill f s g p = { s with
    mem := fillBuffer f s g
    regs :=
      if isLastChunk g then { s.regs with rsr := s.regs.rsr ||| rsrRec, isr := s.regs.isr ||| isrRcomp } else s.regs
    rx := { s.rx with
      state := if isLastChunk g then .idle else .frame { bytes := g.bytes, pos := g.pos + chunkSize g, first := false }
      ptr := p } } := by
  unfold afterFill
  cases isLastChunk g <;> rfl

/-- Settles O27: the checks pass and the advance exists, so the step is the filling one, word by word. -/
theorem rxdFreeFillsABuffer : Obligations.RxdFreeFillsABuffer := by
  intro f s g hg he hbuf hdesc htop a n last w1 p
  have hexec : exec (.rxdFree f) s = .next (afterFill f s g p) :=
    execRxdFree_eq_next.2 (.inr ⟨g, hg, he, hbuf, hdesc, p, advance_of_not_top htop, rfl⟩)
  have hw1 : w1 = rxStatusWord g.bytes.length g.first (isLastChunk g) := (rxStatusWord_eq ..).symm
  rw [hexec, afterFill_eq, rxWord_or_one, hw1]
  rfl

/-- Settles O30: the engine is storing a frame, so the step is the drop. -/
theorem rxdFullDropsTheFrame : Obligations.RxdFullDropsTheFrame :=
  fun f _ g hg he => (execRxdFull_eq_next (f := f)).2 (.inr ⟨⟨g, hg⟩, he, rfl⟩)

/-! ### Where the RX engine faults (43_rx_engine.md R354, R355, R357) -/

theorem execRxdFree_of_not_admitted {f : RxFields} {s : State} {g : RxFrame} (hg : s.rx.state = .frame g)
    (he : rxEnabled s = true)
    (h : admitsRange s.cfg (rxBufferOf f) rxBufSize = false ∨ descriptorOk s.cfg s.rx.ptr = false) :
    execRxdFree f s = .fault .misalignedDma := by
  rw [execRxdFree, whileReceiving_of_receiving hg he]
  split
  · rfl
  · next hbuf =>
    have hdesc := h.resolve_left (by simpa using hbuf)
    rw [hdesc]
    rfl

theorem execRxdFree_at_top {f : RxFields} {s : State} {g : RxFrame} (hg : s.rx.state = .frame g)
    (he : rxEnabled s = true) (hbuf : admitsRange s.cfg (rxBufferOf f) rxBufSize = true)
    (hdesc : descriptorOk s.cfg s.rx.ptr = true) (hwrap : f.wrap = false) (hp : s.rx.ptr = 0xFFFFFFF8) :
    execRxdFree f s = .fault .queueWrapOverflow := by
  rw [execRxdFree, whileReceiving_of_receiving hg he, hbuf, hdesc, hwrap, hp, advance_at_top]
  rfl

theorem rxFetch_of_bad {s : State} (h : admitsRange s.cfg s.rx.ptr 4 = false ∨ s.rx.ptr &&& 0x7 ≠ 0) :
    rxFetch s = .fault .misalignedDma := by
  refine if_neg ?_
  rw [Bool.and_eq_true, beq_iff_eq]
  rintro ⟨hptr, hadm⟩
  rcases h with h | h
  · rw [h] at hadm
    cases hadm
  · exact h hptr

theorem agentStep_rxe_of_receiving {s : State} {g : RxFrame} (hg : s.rx.state = .frame g) (he : rxEnabled s = true) :
    agentStep .rxe s = andThen (rxFetch s) fun w0 => exec (decodeRxd w0) s := by
  refine if_pos ?_
  rw [he, hg]
  rfl

/-- Settles O31: the two checks of the form, its advance, and the fetch. -/
theorem rxdFreeFaults : Obligations.RxdFreeFaults := by
  intro f s g hg he
  refine ⟨fun hbad => ?checks, fun hbuf hdesc hwrap hp => ?top, fun hfetch => ?fetch⟩
  case checks => exact execRxdFree_of_not_admitted hg he (hbad.imp_left admitsRange_eq_false_iff.2)
  case top => exact execRxdFree_at_top hg he hbuf hdesc hwrap hp
  case fetch =>
    rw [agentStep_rxe_of_receiving hg he, rxFetch_of_bad (hfetch.imp_left admitsRange_eq_false_iff.2)]
    rfl

/-! ### What an RX form may change (43_rx_engine.md R355, R356, R360, R364) -/

/-- The four writes stay in the buffer and the descriptor. -/
theorem readByte_fillBuffer_of_outside (f : RxFields) {s : State} (g : RxFrame) {x : Word}
    (hbuf : inSpan x (rxBufferOf f) 128 = false) (hdesc : inSpan x s.rx.ptr 8 = false) :
    readByte (fillBuffer f s g) x = readByte s.mem x := by
  have hn := chunkSize_le g
  have hchunk : inSpan x (rxBufferOf f) ((g.bytes.drop g.pos).take (chunkSize g)).length = false := by
    rw [length_chunk]
    simpa using inSpan_part (j := 0) (n := chunkSize g) hbuf (by omega) (by decide)
  have htail : inSpan x (rxBufferOf f + BitVec.ofNat 32 (chunkSize g)) (s.draws.tail.toList.drop (chunkSize g)).length
      = false := by
    rw [length_drawnTail]
    exact inSpan_part hbuf (by omega) (by decide)
  rw [readByte_fillBuffer_of_not_descriptor f g hdesc, rxDataWritten, readByte_writeBytes_of_not_inSpan _ _ htail,
    readByte_writeBytes_of_not_inSpan _ _ hchunk]

/-- All but memory, `RSR`, `ISR` and the RX engine's place in its run is as before. -/
def RxRestSame (s t : State) : Prop :=
  t = { s with
    mem := t.mem
    regs := { s.regs with rsr := t.regs.rsr, isr := t.regs.isr }
    rx := { t.rx with base := s.rx.base } }

/-- What an answering `RXD_FREE` leaves in memory: nothing new, or the four writes of a frame's next part. -/
theorem exec_rxdFree_frame {f : RxFields} {s t : State} (h : exec (.rxdFree f) s = .next t) :
    (t.mem = s.mem ∨ ∃ g, t.mem = fillBuffer f s g) ∧ RxRestSame s t := by
  rcases execRxdFree_eq_next.1 h with ⟨-, rfl⟩ | ⟨g, -, -, -, -, p, -, rfl⟩
  · exact ⟨.inl rfl, rfl⟩
  · refine ⟨.inr ⟨g, afterFill_mem f s g p⟩, ?_⟩
    rw [RxRestSame, afterFill_eq]
    cases isLastChunk g <;> rfl

theorem exec_rxdFull_frame {f : RxFields} {s t : State} (h : exec (.rxdFull f) s = .next t) :
    t.mem = s.mem ∧ RxRestSame s t := by
  rcases (execRxdFull_eq_next (f := f)).1 h with ⟨-, rfl⟩ | ⟨-, -, rfl⟩
  all_goals exact ⟨rfl, rfl⟩

theorem exec_rxdFree_memoryOutside {f : RxFields} {s t : State} (h : exec (.rxdFree f) s = .next t) {x : Word}
    (hbuf : inSpan x (rxBufferOf f) 128 = false) (hdesc : inSpan x s.rx.ptr 8 = false) :
    readByte t.mem x = readByte s.mem x := by
  obtain ⟨hmem | ⟨g, hmem⟩, -⟩ := exec_rxdFree_frame h
  · rw [hmem]
  · rw [hmem, readByte_fillBuffer_of_outside f g hbuf hdesc]

/-- Settles O32: memory by the writes of each form, and the rest read off the frame of the step. -/
theorem rxFormsLeaveTheRestAlone : Obligations.RxFormsLeaveTheRestAlone := by
  intro f s t
  refine ⟨fun h x => exec_rxdFree_memoryOutside h, fun h a => by rw [(exec_rxdFull_frame h).1], fun h => ?_⟩
  have hrest : RxRestSame s t := h.elim (fun h => (exec_rxdFree_frame h).2) fun h => (exec_rxdFull_frame h).2
  refine ⟨?_, ?_, ?_, ?_, ?_, ?_, ?_, ?_⟩
  all_goals rw [hrest]
  · exact ⟨rfl, rfl, rfl, rfl, rfl, rfl, rfl⟩
  · exact ⟨rfl, rfl, rfl, rfl, rfl, rfl, rfl⟩
  · exact ⟨rfl, rfl, rfl⟩

/-! ### The RX engine's step (43_rx_engine.md R364) -/

theorem eq_readWord_of_rxFetch {s : State} {w : Word} (h : rxFetch s = .next w) : w = readWord s.mem s.rx.ptr := by
  unfold rxFetch at h
  split at h
  · cases h
    rfl
  · cases h

/-- The RX engine holds, or runs the form that word 0 of the descriptor at `rx_ptr` encodes (R350, R354). -/
theorem agentStep_rxe_cases {s t : State} (h : agentStep .rxe s = .next t) :
    t = s ∨ exec (decodeRxd (readWord s.mem s.rx.ptr)) s = .next t := by
  simp only [agentStep, rxeStep] at h
  split at h
  · obtain ⟨w, hw, h⟩ := andThen_eq_next.1 h
    exact .inr (eq_readWord_of_rxFetch hw ▸ h)
  · cases h
    exact .inl rfl

theorem decodeRxd_of_own {w : Word} (h : w.getLsbD 0 = true) :
    decodeRxd w = .rxdFull ⟨w.extractLsb' 2 30, w.getLsbD 1⟩ := if_pos h

theorem decodeRxd_of_free {w : Word} (h : w.getLsbD 0 = false) :
    decodeRxd w = .rxdFree ⟨w.extractLsb' 2 30, w.getLsbD 1⟩ := if_neg (by rw [h]; decide)

/-- Settles O29: `OWN` of word 0 decides between the form that writes nothing and the one that fills the buffer word 0
names and writes the same word with `OWN` last. -/
theorem rxEngineWritesOnlyWhatItOwns : Obligations.RxEngineWritesOnlyWhatItOwns := by
  intro s t h w0
  rcases agentStep_rxe_cases h with rfl | h
  · exact ⟨fun _ _ => rfl, fun _ _ _ => rfl, .inl rfl⟩
  cases hown : w0.getLsbD 0 with
  | true =>
    rw [decodeRxd_of_own hown] at h
    obtain ⟨hmem, -⟩ := exec_rxdFull_frame h
    exact ⟨fun _ a => by rw [hmem], fun x _ _ => by rw [hmem], .inl (by rw [hmem])⟩
  | false =>
    rw [decodeRxd_of_free hown] at h
    refine ⟨nofun, fun x hbuf hdesc => ?outside, ?word0⟩
    case outside =>
      rw [← rxBufferOf_fields] at hbuf
      exact exec_rxdFree_memoryOutside h hbuf hdesc
    case word0 =>
      obtain ⟨hmem | ⟨g, hmem⟩, -⟩ := exec_rxdFree_frame h
      · exact .inl (by rw [hmem])
      · right
        rw [hmem, readWord_fillBuffer_word0, ← rxWord_or_one (w0.getLsbD 0), rxWord_fields]

/-! ### The medium (43_rx_engine.md R352, R361) -/

theorem mediumStep_of_disabled {s : State} (he : rxEnabled s = false) : mediumStep s = s := by
  rw [mediumStep, he]
  rfl

theorem frameOffered_iff {s : State} :
    frameOffered s = true ↔ 1 ≤ s.draws.frame.length ∧ s.draws.frame.length ≤ s.cfg.rxMaxFrame := by
  simp only [frameOffered, Bool.and_eq_true, decide_eq_true_eq]

theorem mediumStep_of_idle {s : State} (he : rxEnabled s = true) (hf : frameOffered s = true)
    (hi : s.rx.state = .idle) :
    mediumStep s =
      emit { s with rx := { s.rx with state := .frame { bytes := s.draws.frame, pos := 0, first := true } } }
        (.rxOffered s.draws.frame) := by
  rw [mediumStep, he, hf, hi]
  rfl

theorem mediumStep_of_storing {s : State} {g : RxFrame} (he : rxEnabled s = true) (hf : frameOffered s = true)
    (hg : s.rx.state = .frame g) :
    mediumStep s = emit (raise (setRsr s rsrOvr) isrRovr) (.rxOffered s.draws.frame) := by
  rw [mediumStep, he, hf, hg]
  rfl

/-- Settles O33: `RE`, then the state of the engine, decides what the medium does. -/
theorem mediumOffersAndOverruns : Obligations.MediumOffersAndOverruns := by
  intro s
  refine ⟨fun he => ?disabled, fun he hi hlo hhi => ?offer, fun he hi hlo hhi => ?overrun⟩
  case disabled => exact congrArg _ (mediumStep_of_disabled he)
  case offer => exact congrArg _ (mediumStep_of_idle he (frameOffered_iff.2 ⟨hlo, hhi⟩) hi)
  case overrun =>
    cases hg : s.rx.state with
    | idle => exact absurd hg hi
    | frame g => exact congrArg _ (mediumStep_of_storing he (frameOffered_iff.2 ⟨hlo, hhi⟩) hg)

end Sys2Proof.Machine

/-!
PROOFS. O34, O36 and O37: the periods of a management frame and its completion (44_mdio.md R405, R406, R409, R410, R413,
R414).
-/

namespace Sys2Proof.Machine

/-! ### One period (44_mdio.md R406, R409) -/

/-- The controller at period `n` of the frame in progress. -/
def atPeriod (s : State) (n : Nat) : State := { s with mdio := { s.mdio with bit := n } }

@[simp] theorem atPeriod_mdio (s : State) (n : Nat) : (atPeriod s n).mdio = { s.mdio with bit := n } := rfl

theorem atPeriod_atPeriod (s : State) (m n : Nat) : atPeriod (atPeriod s m) n = atPeriod s n := rfl

theorem mdioPeriod_of_counting {s : State} (k : State) (hb : s.mdio.busy = true) (hn : s.mdio.bit < 63) :
    mdioPeriod s k = .next (atPeriod s (s.mdio.bit + 1)) :=
  mdioPeriod_eq_next.2 (.inr (.inl ⟨hb, hn, rfl⟩))

theorem mdioPeriod_of_last {s : State} (k : State) (hb : s.mdio.busy = true) (hn : s.mdio.bit = 63) :
    mdioPeriod s k = .next k :=
  mdioPeriod_eq_next.2 (.inr (.inr ⟨hb, hn.ge, rfl⟩))

/-- Settles O34: the periods before the last count, and the completion of each frame is the state written out. -/
theorem managementFramesCountAndComplete : Obligations.ManagementFramesCountAndComplete := by
  intro f s hb
  refine ⟨fun hn => ?counting, fun hn => ?last⟩
  case counting =>
    exact ⟨mdioPeriod_of_counting (mdioReadDone f s) hb hn, mdioPeriod_of_counting (mdioWriteDone f s) hb hn⟩
  case last => exact ⟨mdioPeriod_of_last (mdioReadDone f s) hb hn, mdioPeriod_of_last (mdioWriteDone f s) hb hn⟩

/-! ### What the two frames share -/

/-- Both frames are periods of the same kind; they differ in the word left in `MAN` and in the event (R413, R414). -/
theorem exec_man32_eq_mdioPeriod {i : Instr} (hi : i.format = .man32) (s : State) :
    ∃ v e, exec i s = mdioPeriod s (emit (mdioDone s v) e) := by
  cases i with
  | mdioRead f | mdioWrite f => exact ⟨_, _, rfl⟩
  | _ => nomatch hi

/-- All that a management frame can change: `MAN`, `ISR`, the controller but for its frame word, and the history. -/
theorem exec_man32_cases {i : Instr} {s t : State} (hi : i.format = .man32) (h : exec i s = .next t) :
    ∃ man isr busy bit events, t = { s with
      regs := { s.regs with man := man, isr := isr }
      mdio := { s.mdio with busy := busy, bit := bit }
      events := events } := by
  obtain ⟨v, e, hp⟩ := exec_man32_eq_mdioPeriod hi s
  rcases mdioPeriod_eq_next.1 (hp.symm.trans h) with ⟨-, rfl⟩ | ⟨-, -, rfl⟩ | ⟨-, -, rfl⟩
  all_goals exact ⟨_, _, _, _, _, rfl⟩

/-- Settles O37: everything the statement names lies outside what a management frame can change. -/
theorem managementFramesLeaveTheRestAlone : Obligations.ManagementFramesLeaveTheRestAlone := by
  intro f s t h
  obtain ⟨man, isr, busy, bit, events, rfl⟩ := h.elim (exec_man32_cases rfl) (exec_man32_cases rfl)
  exact ⟨fun _ => rfl, rfl, rfl, rfl, rfl, rfl, rfl, rfl, rfl, rfl, rfl, rfl, ⟨rfl, rfl, rfl, rfl, rfl, rfl, rfl⟩,
    ⟨rfl, rfl, rfl⟩⟩

/-! ### The controller's run (44_mdio.md R400, R405) -/

theorem agentRuns_succ_of_last {g : Agent} {n : Nat} {s u t : State} (hrun : agentRuns g n s u)
    (hlast : agentStep g u = .next t) : agentRuns g (n + 1) s t := by
  induction n generalizing s with
  | zero => cases hrun; exact ⟨t, hlast, rfl⟩
  | succ n ih =>
    obtain ⟨s', hfirst, hrest⟩ := hrun
    exact ⟨s', hfirst, ih hrest⟩

theorem decodeMan_eq_ok_of_manLegal {w : Word} (h : manLegal w = true) : ∃ i, decodeMan w = .ok i := by
  cases hd : decodeMan w with
  | ok i => exact ⟨i, rfl⟩
  | error e =>
    rw [decodeMan_error hd, ← manLegal_eq_false_iff, h] at hd
    cases hd

/-- The controller's step on a legal word is a period of its frame. -/
theorem agentStep_mdio_eq_mdioPeriod {s : State} (hb : s.mdio.busy = true) (hw : manLegal s.mdio.word = true) :
    ∃ v e, agentStep .mdio s = mdioPeriod s (emit (mdioDone s v) e) := by
  obtain ⟨i, hi⟩ := decodeMan_eq_ok_of_manLegal hw
  rw [agentStep, mdioStep_of_busy hb hi]
  exact exec_man32_eq_mdioPeriod (decodeMan_format hi) s

theorem agentStep_mdio_of_counting {s : State} (hb : s.mdio.busy = true) (hw : manLegal s.mdio.word = true)
    (hn : s.mdio.bit < 63) : agentStep .mdio s = .next (atPeriod s (s.mdio.bit + 1)) := by
  obtain ⟨v, e, hp⟩ := agentStep_mdio_eq_mdioPeriod hb hw
  exact hp.trans (mdioPeriod_of_counting _ hb hn)

theorem agentStep_mdio_of_last {s : State} (hb : s.mdio.busy = true) (hw : manLegal s.mdio.word = true)
    (hn : s.mdio.bit = 63) : ∃ v e, agentStep .mdio s = .next (emit (mdioDone s v) e) := by
  obtain ⟨v, e, hp⟩ := agentStep_mdio_eq_mdioPeriod hb hw
  exact ⟨v, e, hp.trans (mdioPeriod_of_last _ hb hn)⟩

/-- Up to the last period, `n` steps of the controller add `n` to `mdio_bit` and do nothing else. -/
theorem agentRuns_mdio_iff_of_counting {n : Nat} {s t : State} (hb : s.mdio.busy = true)
    (hw : manLegal s.mdio.word = true) (hn : s.mdio.bit + n ≤ 63) :
    agentRuns .mdio n s t ↔ atPeriod s (s.mdio.bit + n) = t := by
  induction n generalizing s with
  | zero => rfl
  | succ n ih =>
    have hfirst := agentStep_mdio_of_counting hb hw (by omega)
    have hrest := ih (s := atPeriod s (s.mdio.bit + 1)) hb hw (by simp only [atPeriod_mdio]; omega)
    rw [atPeriod_atPeriod, atPeriod_mdio, Nat.add_right_comm] at hrest
    simp only [agentRuns, hfirst, Host.Outcome.next.injEq, exists_eq_left', hrest, Nat.add_assoc]

/-- Settles O36: 63 steps count up to the last period, and one more completes the frame. -/
theorem managementFrameTakes64Steps : Obligations.ManagementFrameTakes64Steps := by
  intro s hb h0 hw
  have hcount : ∀ {n t}, n < 64 → (agentRuns .mdio n s t ↔ atPeriod s n = t) := fun {n t} hn => by
    simpa [h0] using agentRuns_mdio_iff_of_counting (n := n) (t := t) hb hw (by omega)
  constructor
  · intro n t hn hrun
    rw [← (hcount hn).1 hrun]
    exact hb
  · obtain ⟨v, e, hlast⟩ := agentStep_mdio_of_last (s := atPeriod s 63) hb hw rfl
    refine ⟨_, agentRuns_succ_of_last ((hcount (by omega)).2 rfl) hlast, rfl, rfl, ?mfd, fun _ => rfl, rfl, rfl⟩
    simp [isrMfd]

end Sys2Proof.Machine

/-!
PROOFS. O48: the handover word of `send()` is a TX word 1 (30_encoding.md R217, R218; 45_sw_transmit.md R455).
-/

namespace Sys2Proof.Machine

/-- What `send()` means by the handover word of a chunk of `n` bytes. -/
def handoverFields (n : Nat) (wrap : Bool) : TxFields :=
  { len := BitVec.ofNat 11 n, resLow := 0, resHigh := 0, bex := false, und := false, rle := false, wrap := wrap }

theorem handoverFields_wf {n : Nat} (h1 : 1 ≤ n) (hn : n ≤ 2047) (wrap : Bool) : (handoverFields n wrap).wf = true := by
  have hlen : BitVec.ofNat 11 n ≠ 0 := fun h => by
    have hzero : n % 2 ^ 11 = 0 := by simpa using congrArg BitVec.toNat h
    omega
  simpa [TxFields.wf, handoverFields] using hlen

theorem setWidth_ofBool (b : Bool) : (BitVec.ofBool b).setWidth 32 = if b then 1#32 else 0#32 := by
  cases b <;> rfl

/-- The fields of the word, one beside the other, are the or of R455's shifts. -/
theorem txWord_handoverFields {n : Nat} (hn : n ≤ 2047) (last wrap : Bool) :
    txWord false last (handoverFields n wrap) = sendWord n last wrap := by
  have hlen : (BitVec.ofNat 11 n).setWidth 32 = BitVec.ofNat 32 n := BitVec.eq_of_toNat_eq <| by
    rw [BitVec.toNat_setWidth, BitVec.toNat_ofNat, BitVec.toNat_ofNat, Nat.mod_eq_of_lt (by omega : n < 2 ^ 11)]
  calc txWord false last (handoverFields n wrap)
    _ = ((if wrap then 1#32 else 0#32) <<< 30) ||| ((if last then 1#32 else 0#32) <<< 15) ||| BitVec.ofNat 32 n := by
      rw [txWord, ← BitVec.setWidth_eq (_ ++ _ : BitVec (_ + 11))]
      simp only [handoverFields, setWidth_append_eq_or, BitVec.shiftLeft_or_distrib, ← BitVec.shiftLeft_add, hlen]
      simp [setWidth_ofBool]
    _ = sendWord n last wrap := by
      rw [sendWord, BitVec.or_comm, BitVec.or_assoc, BitVec.or_comm ((if last then 1#32 else 0#32) <<< 15)]

/-- Settles O48: the word is a descriptor's with `USED` 0, and the decoder gives a descriptor's fields back. -/
theorem handoverWordsDecodeAsSent : Obligations.HandoverWordsDecodeAsSent := by
  intro n last wrap h1 hn
  refine ⟨handoverFields_wf h1 hn wrap, ?_⟩
  rw [← txWord_handoverFields hn, decodeTxd_txWord]
  rfl

end Sys2Proof.Machine

/-!
PROOFS. O54: `setup()` establishes the rings (10_state.md R80 to R82; 45_sw_transmit.md R450, R451).
-/

namespace Sys2Proof.Machine

/-! ### Runs of one agent -/

theorem agentRuns_trans {g : Agent} {n m : Nat} {s u t : State} (h1 : agentRuns g n s u) (h2 : agentRuns g m u t) :
    agentRuns g (n + m) s t := by
  induction n generalizing s with
  | zero => cases h1; rwa [Nat.zero_add]
  | succ n ih =>
    obtain ⟨s', hfirst, hrest⟩ := h1
    rw [Nat.succ_add]
    exact ⟨s', hfirst, ih hrest⟩

theorem agentRuns_two {g : Agent} {s u t : State} (h1 : agentStep g s = .next u) (h2 : agentStep g u = .next t) :
    agentRuns g 2 s t := ⟨u, h1, t, h2, rfl⟩

/-- A loop of `count` turns of `k` steps each, with its invariant. -/
theorem agentRuns_loop {g : Agent} {k count : Nat} {inv : Nat → State → Prop} {s : State} (h0 : inv 0 s)
    (hturn : ∀ i u, i < count → inv i u → ∃ t, agentRuns g k u t ∧ inv (i + 1) t) :
    ∃ t, agentRuns g (k * count) s t ∧ inv count t := by
  induction count with
  | zero => exact ⟨s, rfl, h0⟩
  | succ n ih =>
    obtain ⟨u, hruns, hu⟩ := ih fun i u hi => hturn i u (by omega)
    obtain ⟨t, hlast, ht⟩ := hturn n u (by omega) hu
    exact ⟨t, agentRuns_trans hruns hlast, ht⟩

/-! ### Slots whose two words are written -/

/-- The first `n` slots of the ring whose slot `i` is at `d i` hold `w0 i` and `w1 i`. -/
def SlotsHold (d w0 w1 : Nat → Word) (n : Nat) (m : Memory) : Prop :=
  ∀ i, i < n → readWord m (d i) = w0 i ∧ readWord m (d i + 4) = w1 i

section Slots

variable {d w0 w1 : Nat → Word} {base count n : Nat} {m : Memory} (hd : ∀ i, i < count → (d i).toNat = base + 8 * i)
  (hbase : base % 8 = 0) (h : SlotsHold d w0 w1 n m)

theorem slotsHold_zero : SlotsHold d w0 w1 0 m := fun _ hi => absurd hi (Nat.not_lt_zero _)

include hd hbase h

/-- A word written outside the slots leaves them as they are. -/
theorem slotsHold_writeWord (hn : n ≤ count) {a v : Word} (ha : a.toNat % 4 = 0)
    (hout : a.toNat < base ∨ base + 8 * n ≤ a.toNat) : SlotsHold d w0 w1 n (writeWord m a v) := by
  intro i hi
  have hword0 := hd i (by omega)
  have hword1 := toNat_add_four (a := d i) (by omega)
  rw [readWord_writeWord_of_ne m ha (by omega) (ne_of_apply_ne BitVec.toNat (by omega)),
    readWord_writeWord_of_ne m ha (by omega) (ne_of_apply_ne BitVec.toNat (by omega))]
  exact h i hi

/-- Both words of the next slot written, in either order, it holds them too. -/
theorem slotsHold_succ (hn : n < count) :
    SlotsHold d w0 w1 (n + 1) (writeWord (writeWord m (d n) (w0 n)) (d n + 4) (w1 n))
      ∧ SlotsHold d w0 w1 (n + 1) (writeWord (writeWord m (d n + 4) (w1 n)) (d n) (w0 n)) := by
  have hword0 := hd n hn
  have hword1 := toNat_add_four (a := d n) (by omega)
  have hne : d n ≠ d n + 4 := ne_of_apply_ne BitVec.toNat (by omega)
  have hkeep : ∀ {m' : Memory} {a v : Word}, SlotsHold d w0 w1 n m' → a = d n ∨ a = d n + 4 →
      SlotsHold d w0 w1 n (writeWord m' a v) := fun h' ha => by
    rcases ha with rfl | rfl
    all_goals exact slotsHold_writeWord hd hbase h' (by omega) (by omega) (.inr (by omega))
  constructor
  all_goals
    intro i hi
    rcases Nat.lt_succ_iff_lt_or_eq.1 hi with hi | rfl
  · exact hkeep (hkeep h (.inl rfl)) (.inr rfl) i hi
  · rw [readWord_writeWord_same, readWord_writeWord_of_ne _ (by omega) (by omega) hne, readWord_writeWord_same]
    exact ⟨rfl, rfl⟩
  · exact hkeep (hkeep h (.inr rfl)) (.inl rfl) i hi
  · rw [readWord_writeWord_same, readWord_writeWord_of_ne _ (by omega) (by omega) hne.symm, readWord_writeWord_same]
    exact ⟨rfl, rfl⟩

end Slots

/-! ### The stores of `setup()` are performed -/

/-- The word at `a` is aligned and lies in one of the two rings. -/
def IsRingWord (c : Config) (a : Word) : Prop :=
  a.toNat % 4 = 0
    ∧ ((c.txDescBase.toNat ≤ a.toNat ∧ a.toNat < c.txDescBase.toNat + 8 * c.txCount)
      ∨ (c.rxDescBase.toNat ≤ a.toNat ∧ a.toNat < c.rxDescBase.toNat + 8 * c.rxCount))

theorem isRingWord_descTx {c : Config} (hl : RingLayout c) {i : Nat} (hi : i < c.txCount) :
    IsRingWord c (descTx c i) ∧ IsRingWord c (descTx c i + 4) := by
  have hword0 := toNat_descTx hl hi
  have hword1 := toNat_descTx_word1 hl hi
  have hal := hl.txAligned
  constructor <;> constructor <;> omega

theorem isRingWord_descRx {c : Config} (hl : RingLayout c) {i : Nat} (hi : i < c.rxCount) :
    IsRingWord c (descRx c i) ∧ IsRingWord c (descRx c i + 4) := by
  have hword0 := toNat_descRx hl hi
  have hword1 := toNat_descRx_word1 hl hi
  have hal := hl.rxAligned
  constructor <;> constructor <;> omega

/-- The register window is apart from both rings (00_scope.md R15). -/
theorem window_apart_of_configOk {c : Config} (h : configOk c = true) :
    c.emacBase.toNat % 256 = 0
      ∧ (c.emacBase.toNat + 256 ≤ c.rxDescBase.toNat ∨ c.rxDescBase.toNat + 8 * c.rxCount ≤ c.emacBase.toNat)
      ∧ (c.emacBase.toNat + 256 ≤ c.txDescBase.toNat ∨ c.txDescBase.toNat + 8 * c.txCount ≤ c.emacBase.toNat) := by
  have hpage : c.emacBase &&& 0xFF = 0 → c.emacBase.toNat % 256 = 0 := fun h => by
    rw [← Nat.and_two_pow_sub_one_eq_mod _ 8]
    exact congrArg BitVec.toNat h
  simp only [configOk, configChecks, ringRanges, allDisjoint, rangesDisjoint, List.all_cons, List.all_nil,
    Bool.and_eq_true, Bool.or_eq_true, decide_eq_true_eq, beq_iff_eq] at h
  obtain ⟨-, -, -, -, -, -, -, -, -, -, -, hbase, -, -, -, -, ⟨⟨hrx, htx, -⟩, -⟩, -⟩ := h
  exact ⟨hpage hbase, hrx, htx⟩

/-- A word of a ring is not in the register window (20_memory.md R150). -/
theorem isRingWord_not_in_window {c : Config} (hc : configOk c = true) {a : Word} (ha : IsRingWord c a) :
    touches a 4 c.emacBase windowSize = false := by
  obtain ⟨hpage, hrx, htx⟩ := window_apart_of_configOk hc
  obtain ⟨hal, hin⟩ := ha
  have halt := a.isLt
  simp only [touches, List.any_eq_false, List.mem_range, inSpan, windowSize, decide_eq_true_eq, BitVec.toNat_sub,
    BitVec.toNat_add, BitVec.toNat_ofNat]
  intro k hk
  omega

/-- The preconditions of `setup()` (R451), with no handler running, in a legal configuration. -/
structure SetupReady (id : ContextId) (s : State) : Prop where
  configOk : configOk s.cfg = true
  notIsr : id ≠ .isr
  isrIdle : isIdle s.hostIsr = true
  rxDisabled : rxEnabled s = false
  rxIdle : s.rx.state = .idle
  txIdle : s.tx.state = .idle

theorem setupReady_update {id : ContextId} {s : State} (hs : SetupReady id s) (m : Memory) (sw : Software)
    (pw : List (Reg × Word)) : SetupReady id { s with mem := m, sw := sw, pw := pw } :=
  ⟨hs.configOk, hs.notIsr, hs.isrIdle, hs.rxDisabled, hs.rxIdle, hs.txIdle⟩

/-- A word store into a ring is performed while neither engine can run: it breaks nobody's ownership (R165, R166). -/
theorem perform_st32_of_quiet {s : State} {a v : Word} (hc : configOk s.cfg = true) (ha : IsRingWord s.cfg a)
    (hre : rxEnabled s = false) (hrx : s.rx.state = .idle) (htx : s.tx.state = .idle) :
    perform (st32 a v) s = .next (some ({ s with mem := writeWord s.mem a v }, HostValue.nothing)) := by
  have hwindow : ¬touches a (leBytes v).length s.cfg.emacBase windowSize = true :=
    ne_true_of_eq_false (isRingWord_not_in_window hc ha)
  have hwidth : refusesWidth s.cfg a (leBytes v).length = false :=
    refusesWidth_eq_false (.inr ⟨length_leBytes v, and_three_eq_zero_iff.2 ha.1⟩)
  calc perform (st32 a v) s
    _ = hostStore a (leBytes v) s := if_neg hwindow
    _ = _ := hostStore_of_breaksNone hwidth (by simp [receptionCanRun_iff, hre, hrx]) (by simp [htx])

/-! ### The context at each line -/

/-- `s` with the context `id` at the line `p`. -/
def standing (id : ContextId) (rest : List Point) (p : Point) (s : State) : State :=
  putContext s id rest (goOn (contextOf s id) s.sw [p])

@[simp] theorem standing_cfg (id : ContextId) (rest : List Point) (p : Point) (s : State) :
    (standing id rest p s).cfg = s.cfg := putContext_cfg ..
@[simp] theorem standing_sw (id : ContextId) (rest : List Point) (p : Point) (s : State) :
    (standing id rest p s).sw = s.sw := putContext_sw ..
@[simp] theorem standing_draws (id : ContextId) (rest : List Point) (p : Point) (s : State) :
    (standing id rest p s).draws = s.draws := putContext_draws ..

theorem eq_tx_or_rx_of_ne_isr {id : ContextId} (hid : id ≠ .isr) : id = .tx ∨ id = .rx := by
  cases id with
  | tx => exact .inl rfl
  | rx => exact .inr rfl
  | isr => exact absurd rfl hid

section Lines

variable {id : ContextId} {rest : List Point} {p q : Point} {s u : State}

theorem standing_of_stack (hid : id ≠ .isr) (hs : (contextOf s id).stack = p :: rest) : standing id rest p s = s := by
  obtain rfl | rfl := eq_tx_or_rx_of_ne_isr hid
  all_goals
    simp only [standing, putContext, contextOf, goOn, List.singleton_append] at hs ⊢
    rw [← hs]

theorem contextOf_standing (hid : id ≠ .isr) : contextOf (standing id rest p s) id =
    { stack := p :: rest, ret := (contextOf s id).ret, data := (contextOf s id).data } := by
  obtain rfl | rfl := eq_tx_or_rx_of_ne_isr hid <;> rfl

theorem hostIsr_standing (hid : id ≠ .isr) : (standing id rest p s).hostIsr = s.hostIsr := by
  obtain rfl | rfl := eq_tx_or_rx_of_ne_isr hid <;> rfl

/-- A context that goes on from a line stands at the next one. -/
theorem putContext_standing (hid : id ≠ .isr) (n : Next) :
    putContext (standing id rest p s) id rest n = putContext s id rest n := by
  obtain rfl | rfl := eq_tx_or_rx_of_ne_isr hid <;> rfl

/-- A line that enters no critical section and whose access is performed leaves what the access and `nextOf` say. -/
theorem agentStep_standing (hs : SetupReady id s) (hcrit : entersCritical p = false) {v : HostValue} {n : Next}
    (hop : perform (opOf s.cfg s.sw s.draws p) (standing id rest p s) = .next (some (standing id rest p u, v)))
    (hnext : nextOf s.cfg s.sw s.draws (contextOf (standing id rest p s) id) v p = n) :
    agentStep (agentOf id) (standing id rest p s) = .next (putContext u id rest n) := by
  have hline := hostStep_of_line (s := standing id rest p s) (p := p) (rest := rest) (id := id)
    (.inr (by rw [hostIsr_standing hs.notIsr]; exact hs.isrIdle)) (by rw [contextOf_standing hs.notIsr])
    (by rw [hcrit]; rfl)
  rw [agentStep_agentOf, hline, lineStep, standing_cfg, standing_sw, standing_draws, hop]
  simp only [andThen, hnext, putContext_standing hs.notIsr]

/-- The same where the line goes on at `q`. -/
theorem agentStep_goOn (hs : SetupReady id s) (hcrit : entersCritical p = false) {v : HostValue} {sw : Software}
    (hctx : contextOf u id = contextOf s id)
    (hop : perform (opOf s.cfg s.sw s.draws p) (standing id rest p s) = .next (some (standing id rest p u, v)))
    (hnext : ∀ x, nextOf s.cfg s.sw s.draws x v p = goOn x sw [q]) :
    agentStep (agentOf id) (standing id rest p s) = .next (standing id rest q { u with sw := sw }) := by
  rw [agentStep_standing hs hcrit hop (hnext _), contextOf_standing hs.notIsr]
  change _ = Host.Outcome.next (putContext u id rest (goOn (contextOf u id) sw [q]))
  rw [hctx]
  rfl

theorem perform_st32_standing (hs : SetupReady id s) {a v : Word} (ha : IsRingWord s.cfg a) :
    perform (st32 a v) (standing id rest p s) =
      .next (some (standing id rest p { s with mem := writeWord s.mem a v }, HostValue.nothing)) := by
  obtain ⟨hc, hid, -, hre, hrx, htx⟩ := hs
  obtain rfl | rfl := eq_tx_or_rx_of_ne_isr hid
  all_goals exact perform_st32_of_quiet hc ha hre hrx htx

theorem perform_regWrite_standing (hid : id ≠ .isr) {r : Reg} (v : Word) (hnsr : r ≠ .nsr) (hisr : r ≠ .isr)
    (himr : r ≠ .imr) : perform (.regWrite r v) (standing id rest p s) =
    .next (some (standing id rest p { s with pw := s.pw ++ [(r, v)] }, HostValue.nothing)) := by
  obtain ⟨i, hi⟩ := decodeBus_write_eq_ok v hnsr hisr himr
  have hpost := hostRegWrite_of_decodes hi (regAt_busCommand true r) (standing id rest p s)
  obtain rfl | rfl := eq_tx_or_rx_of_ne_isr hid
  all_goals exact hpost

/-- A line that stores a word into a ring, in `s` with the memory written so far. -/
theorem agentStep_store (p q : Point) (hs : SetupReady id s) (hcrit : entersCritical p = false) {a v : Word}
    (ha : IsRingWord s.cfg a) (hop : opOf s.cfg s.sw s.draws p = st32 a v)
    (hnext : ∀ x y, nextOf s.cfg s.sw s.draws x y p = goOn x s.sw [q]) (m : Memory) :
    agentStep (agentOf id) (standing id rest p { s with mem := m }) =
      .next (standing id rest q { s with mem := writeWord m a v }) :=
  have hs' := setupReady_update hs m s.sw s.pw
  agentStep_goOn (s := { s with mem := m }) (u := { s with mem := writeWord m a v }) hs' hcrit rfl
    ((congrArg (perform · _) hop).trans (perform_st32_standing hs' ha)) (hnext · HostValue.nothing)

end Lines

/-! ### The loops over the slots -/

/-- Word 1 of slot `i` of the TX ring after `setup()`: used, and `WRAP` in the last slot (R450). -/
def setupTxWord1 (c : Config) (i : Nat) : Word := 0x80000000 ||| (if i + 1 = c.txCount then 0x40000000 else 0)

/-- Word 0 of slot `i` of the RX ring after `setup()`: its buffer, and `WRAP` in the last slot (R450). -/
def setupRxWord0 (c : Config) (i : Nat) : Word := rxBufferAddr c i ||| (if i + 1 = c.rxCount then 0x2 else 0)

/-- The first `n` TX slots are as `setup()` writes them. -/
def TxSlotsSet (c : Config) : Nat → Memory → Prop := SlotsHold (descTx c) (txBufferAddr c) (setupTxWord1 c)

/-- The first `n` RX slots are as `setup()` writes them. -/
def RxSlotsSet (c : Config) : Nat → Memory → Prop := SlotsHold (descRx c) (setupRxWord0 c) fun _ => 0

/-- The stores into the RX ring leave the TX ring as it is. -/
theorem txSlotsSet_writeWord_descRx {c : Config} (hl : RingLayout c) {m : Memory} {a v : Word} {i : Nat}
    (h : TxSlotsSet c c.txCount m) (hi : i < c.rxCount) (ha : a = descRx c i ∨ a = descRx c i + 4) :
    TxSlotsSet c c.txCount (writeWord m a v) := by
  have hrings := hl.rings
  have hal := hl.rxAligned
  have haddr0 := toNat_descRx hl hi
  have haddr1 := toNat_descRx_word1 hl hi
  rcases ha with rfl | rfl
  all_goals exact slotsHold_writeWord (fun _ => toNat_descTx hl) hl.txAligned h le_rfl (by omega) (by omega)

/-- The line at the head of turn `i` of the loop over the TX ring. -/
def setupTxLine (c : Config) (i : Nat) : Point := if i < c.txCount then .setupTxWord0 i else .setupRxWord1 0

/-- The line at the head of turn `i` of the loop over the RX ring. -/
def setupRxLine (c : Config) (i : Nat) : Point := if i < c.rxCount then .setupRxWord1 i else .setupCursors

/-- What holds at the head of turn `i` of the loop over the TX ring, which starts in `s`. -/
def TxTurn (id : ContextId) (rest : List Point) (s : State) (i : Nat) (t : State) : Prop :=
  ∃ m, t = standing id rest (setupTxLine s.cfg i) { s with mem := m } ∧ TxSlotsSet s.cfg i m

/-- What holds at the head of turn `i` of the loop over the RX ring, `s` being where `setup()` starts. -/
def RxTurn (id : ContextId) (rest : List Point) (s : State) (i : Nat) (t : State) : Prop :=
  ∃ m, t = standing id rest (setupRxLine s.cfg i) { s with mem := m } ∧ TxSlotsSet s.cfg s.cfg.txCount m
    ∧ RxSlotsSet s.cfg i m

section Loops

variable {id : ContextId} {rest : List Point} {s : State} (hs : SetupReady id s)
include hs

theorem txTurn_succ {i : Nat} {u : State} (hi : i < s.cfg.txCount) (hu : TxTurn id rest s i u) :
    ∃ t, agentRuns (agentOf id) 2 u t ∧ TxTurn id rest s (i + 1) t := by
  obtain ⟨m, rfl, hset⟩ := hu
  have hl := ringLayout_of_configOk hs.configOk
  have hline : setupTxLine s.cfg i = .setupTxWord0 i := if_pos hi
  rw [hline]
  obtain ⟨hword0, hword1⟩ := isRingWord_descTx hl hi
  have hfirst := agentStep_store (rest := rest) (.setupTxWord0 i) (.setupTxWord1 i) hs rfl hword0 rfl fun _ _ => rfl
  have hsecond := agentStep_store (rest := rest) (.setupTxWord1 i) (setupTxLine s.cfg (i + 1)) hs rfl hword1 rfl
    fun _ _ => rfl
  exact ⟨_, agentRuns_two (hfirst m) (hsecond _), _, rfl,
    (slotsHold_succ (fun _ => toNat_descTx hl) hl.txAligned hset hi).1⟩

theorem rxTurn_succ {i : Nat} {u : State} (hi : i < s.cfg.rxCount) (hu : RxTurn id rest s i u) :
    ∃ t, agentRuns (agentOf id) 2 u t ∧ RxTurn id rest s (i + 1) t := by
  obtain ⟨m, rfl, htx, hset⟩ := hu
  have hl := ringLayout_of_configOk hs.configOk
  have hline : setupRxLine s.cfg i = .setupRxWord1 i := if_pos hi
  rw [hline]
  obtain ⟨hword0, hword1⟩ := isRingWord_descRx hl hi
  have hfirst := agentStep_store (rest := rest) (.setupRxWord1 i) (.setupRxWord0 i) hs rfl hword1 rfl fun _ _ => rfl
  have hsecond := agentStep_store (rest := rest) (.setupRxWord0 i) (setupRxLine s.cfg (i + 1)) hs rfl hword0 rfl
    fun _ _ => rfl
  have htxSet : ∀ v w, TxSlotsSet s.cfg s.cfg.txCount
      (writeWord (writeWord m (descRx s.cfg i + 4) v) (descRx s.cfg i) w) := fun v w =>
    txSlotsSet_writeWord_descRx hl (txSlotsSet_writeWord_descRx hl htx hi (.inr rfl)) hi (.inl rfl)
  exact ⟨_, agentRuns_two (hfirst m) (hsecond _), _, rfl, htxSet _ _,
    (slotsHold_succ (fun _ => toNat_descRx hl) hl.rxAligned hset hi).2⟩

/-- The lines over both rings: each slot takes two stores. -/
theorem agentRuns_setup_loops : ∃ m,
    agentRuns (agentOf id) (2 * s.cfg.txCount + 2 * s.cfg.rxCount) (standing id rest (.setupTxWord0 0) s)
        (standing id rest .setupCursors { s with mem := m })
      ∧ TxSlotsSet s.cfg s.cfg.txCount m ∧ RxSlotsSet s.cfg s.cfg.rxCount m := by
  have hl := ringLayout_of_configOk hs.configOk
  have hstart : TxTurn id rest s 0 (standing id rest (.setupTxWord0 0) s) :=
    ⟨s.mem, by rw [setupTxLine, if_pos (Nat.lt_of_succ_le hl.txSome)], slotsHold_zero⟩
  obtain ⟨_, htxRuns, m, rfl, htx⟩ := agentRuns_loop hstart fun i u hi hu => txTurn_succ hs hi hu
  have hturn : RxTurn id rest s 0 (standing id rest (setupTxLine s.cfg s.cfg.txCount) { s with mem := m }) :=
    ⟨m, by rw [setupTxLine, setupRxLine, if_neg (Nat.lt_irrefl _), if_pos (Nat.lt_of_succ_le hl.rxSome)], htx,
      slotsHold_zero⟩
  obtain ⟨_, hrxRuns, m', rfl, htx', hrx⟩ := agentRuns_loop hturn fun i u hi hu => rxTurn_succ hs hi hu
  rw [setupRxLine, if_neg (Nat.lt_irrefl _)] at hrxRuns
  exact ⟨m', agentRuns_trans htxRuns hrxRuns, htx', hrx⟩

end Loops

/-! ### The last three lines -/

/-- The software state after `setup()` (R450). -/
def setupSoftware (sw : Software) : Software :=
  { sw with txIndex := 0, txReclaim := 0, rxIndex := 0, rxOffset := 0, rxConsumed := 0, rxReady := false }

/-- `s` with the cursors set. -/
def cursorsReset (s : State) : State := { s with sw := setupSoftware s.sw }

/-- `s` with the cursors set and the write of `RBQP` posted. -/
def rbqpPosted (s : State) : State := { cursorsReset s with pw := s.pw ++ [(.rbqp, descRx s.cfg 0)] }

/-- `s` with the cursors set and both writes posted. -/
def bothPosted (s : State) : State := { rbqpPosted s with pw := (rbqpPosted s).pw ++ [(.tbqp, descTx s.cfg 0)] }

/-- `s` after the last three lines of `setup()`: the context is at its caller. -/
def setupDone (id : ContextId) (rest : List Point) (s : State) : State :=
  putContext (bothPosted s) id rest (returns (contextOf s id) (setupSoftware s.sw) 0)

@[simp] theorem setupDone_cfg (id : ContextId) (rest : List Point) (s : State) :
    (setupDone id rest s).cfg = s.cfg := putContext_cfg ..
@[simp] theorem setupDone_mem (id : ContextId) (rest : List Point) (s : State) :
    (setupDone id rest s).mem = s.mem := putContext_mem ..
@[simp] theorem setupDone_sw (id : ContextId) (rest : List Point) (s : State) :
    (setupDone id rest s).sw = setupSoftware s.sw := putContext_sw ..
@[simp] theorem setupDone_pw (id : ContextId) (rest : List Point) (s : State) :
    (setupDone id rest s).pw = s.pw ++ [(.rbqp, descRx s.cfg 0), (.tbqp, descTx s.cfg 0)] :=
  (putContext_pw ..).trans (List.append_assoc ..)

theorem contextOf_setupDone {id : ContextId} (hid : id ≠ .isr) (rest : List Point) (s : State) :
    (contextOf (setupDone id rest s) id).stack = rest := by
  obtain rfl | rfl := eq_tx_or_rx_of_ne_isr hid <;> rfl

theorem agentRuns_setup_lastLines {id : ContextId} {s : State} (hs : SetupReady id s) (rest : List Point) :
    agentRuns (agentOf id) 3 (standing id rest .setupCursors s) (setupDone id rest s) := by
  have hready := setupReady_update hs s.mem (setupSoftware s.sw)
  have hcursors : agentStep (agentOf id) (standing id rest .setupCursors s) =
      .next (standing id rest .setupRbqp (cursorsReset s)) :=
    agentStep_goOn (u := s) hs rfl rfl rfl fun _ => rfl
  have hrbqp : agentStep (agentOf id) (standing id rest .setupRbqp (cursorsReset s)) =
      .next (standing id rest .setupTbqp (rbqpPosted s)) :=
    agentStep_goOn (s := cursorsReset s) (u := rbqpPosted s) (hready s.pw) rfl rfl
      (perform_regWrite_standing (r := .rbqp) hs.notIsr _ (by decide) (by decide) (by decide)) fun _ => rfl
  have htbqp : agentStep (agentOf id) (standing id rest .setupTbqp (rbqpPosted s)) = .next (setupDone id rest s) :=
    agentStep_standing (u := bothPosted s) (hready _) rfl
      (perform_regWrite_standing (r := .tbqp) hs.notIsr _ (by decide) (by decide) (by decide))
      (by rw [contextOf_standing hs.notIsr]; rfl)
  exact ⟨_, hcursors, agentRuns_two hrbqp htbqp⟩

/-! ### What the words of the slots say -/

theorem setupRxWord0_and_mask {c : Config} (hl : RingLayout c) {i : Nat} (hi : i < c.rxCount) :
    setupRxWord0 c i &&& 0xFFFFFFFC = rxBufferAddr c i := by
  have hi4 := toNat_rxBufferAddr hl hi
  have hal := hl.rxPoolAligned
  have haddr : rxBufferAddr c i &&& 0xFFFFFFFC = rxBufferAddr c i := and_mask_eq (and_three_eq_zero_iff.2 (by omega))
  rw [setupRxWord0, BitVec.and_comm, BitVec.and_or_distrib_left, BitVec.and_comm, haddr]
  split <;> exact BitVec.or_zero

section Words

variable {s : State} (hl : RingLayout s.cfg)

theorem txRingWraps_of_slotsSet (h : TxSlotsSet s.cfg s.cfg.txCount s.mem) : TxRingWraps s := fun i hi => by
  rw [(h i hi).2]
  exact getLsbD_setupTxWord1 _

include hl

theorem rxRingWraps_of_slotsSet (h : RxSlotsSet s.cfg s.cfg.rxCount s.mem) : RxRingWraps s := fun i hi => by
  have hbuf := toNat_rxBufferAddr hl hi
  have hal := hl.rxPoolAligned
  rw [(h i hi).1]
  exact getLsbD_setupRxWord0 (by omega) _

theorem rxBuffersBound_of_slotsSet (h : RxSlotsSet s.cfg s.cfg.rxCount s.mem) : RxBuffersBound s := fun i hi => by
  rw [(h i hi).1, setupRxWord0_and_mask hl hi]

end Words

/-- Settles O54: two loops write the rings and three more lines set the cursors and post the pointers; the rest is what the
words written say. -/
theorem setupEstablishesTheRings : Obligations.SetupEstablishesTheRings := by
  intro id rest s hc hid hisr hstack hre hrx htx
  have hs : SetupReady id s := ⟨hc, hid, hisr, hre, hrx, htx⟩
  have hl := ringLayout_of_configOk hc
  obtain ⟨m, hruns, htxSet, hrxSet⟩ := agentRuns_setup_loops (rest := rest) hs
  rw [standing_of_stack hid hstack] at hruns
  have hpost := agentRuns_setup_lastLines (setupReady_update hs m s.sw s.pw) rest
  have hrings : RingsWrap { s with mem := m } := ⟨txRingWraps_of_slotsSet htxSet, rxRingWraps_of_slotsSet hl hrxSet⟩
  have hbound : RxBuffersBound { s with mem := m } := rxBuffersBound_of_slotsSet hl hrxSet
  refine ⟨setupDone id rest { s with mem := m }, agentRuns_trans hruns hpost, ?_⟩
  simp only [RingsWrap, TxRingWraps, RxRingWraps, RxBuffersBound, CursorsInRings, setupDone_cfg, setupDone_mem,
    setupDone_sw, setupDone_pw]
  exact ⟨htxSet, fun i hi => (hrxSet i hi).symm, hrings, hbound, ⟨hl.txSome, hl.txSome, hl.rxSome⟩, rfl, trivial,
    contextOf_setupDone hid ..⟩

end Sys2Proof.Machine

/-!
PROOFS. O52: the precondition of `read()` (46_sw_receive.md R512).
-/

namespace Sys2Proof.Machine

theorem opOf_readCheck_of_beyond {sw : Software} {l : ReadLocals} (h : l.total.toNat < l.len.toNat + sw.rxConsumed)
    (c : Config) (d : Draws) : opOf c sw d (.readCheck l) = .stop := if_pos h

theorem opOf_readCopy_of_not_owned {w0 : Word} (h : w0.getLsbD 0 = false) (c : Config) (sw : Software) (d : Draws)
    (l : ReadLocals) : opOf c sw d (.readCopy l w0) = .stop := if_neg (ne_true_of_eq_false h)

/-- A line that makes the stop of R512 makes no access and goes nowhere. -/
theorem lineStep_of_stop {p : Point} {s : State} (hop : opOf s.cfg s.sw s.draws p = .stop) (id : ContextId)
    (rest : List Point) : lineStep id p rest s = .fault .readPrecondition := by
  rw [lineStep, hop, perform, andThen_fault]

/-- Settles O52: the check stops on a section beyond the frame, and the LDB line on a buffer software does not own. -/
theorem readPreconditionFaults : Obligations.ReadPreconditionFaults := by
  intro id l w0 rest s
  exact ⟨fun hbeyond => lineStep_of_stop (opOf_readCheck_of_beyond hbeyond ..) id rest,
    fun hnotOwned => lineStep_of_stop (opOf_readCopy_of_not_owned hnotOwned ..) id rest⟩

end Sys2Proof.Machine

/-!
PROOFS. O50: the resolution reads three bits, in the order of R558 (47_sw_phy_init.md).
-/

namespace Sys2Proof.Machine

/-- A mask of one bit tests that bit. -/
theorem and_twoPow_ne_zero_iff {w i : Nat} (x : BitVec w) (hi : i < w) :
    x &&& BitVec.twoPow w i ≠ 0#w ↔ x.getLsbD i = true := by
  have hbit : BitVec.twoPow w i ≠ 0#w := fun h => by
    simpa [hi] using congrArg (BitVec.getLsbD · i) h
  rw [BitVec.and_twoPow]
  cases x.getLsbD i <;> simp [hbit]

/-- The three masks of R558 as the bits they test. -/
theorem resolveBits_eq_of_bits (x : Half) : resolveBits x =
    if x.getLsbD 8 then 3 else if x.getLsbD 7 then 1 else if x.getLsbD 6 then 2 else 0 := by
  have h8 : x &&& 0x0100 ≠ 0 ↔ x.getLsbD 8 = true := and_twoPow_ne_zero_iff x (i := 8) (by decide)
  have h7 : x &&& 0x0080 ≠ 0 ↔ x.getLsbD 7 = true := and_twoPow_ne_zero_iff x (i := 7) (by decide)
  have h6 : x &&& 0x0040 ≠ 0 ↔ x.getLsbD 6 = true := and_twoPow_ne_zero_iff x (i := 6) (by decide)
  simp only [resolveBits, h8, h7, h6]

/-- Settles O50: the first of the three bits that is set decides. -/
theorem resolutionPrefersSpeedThenDuplex : Obligations.ResolutionPrefersSpeedThenDuplex := by
  intro x
  rw [resolveBits_eq_of_bits]
  refine ⟨fun h8 => ?full100, fun h8 h7 => ?half100, fun h8 h7 h6 => ?full10, fun h8 h7 h6 => ?neither⟩
  case full100 => rw [h8]; rfl
  case half100 => rw [h8, h7]; rfl
  case full10 => rw [h8, h7, h6]; rfl
  case neither => rw [h8, h7, h6]; rfl

end Sys2Proof.Machine

/-!
PROOFS. O51: the divider table of R563 against the dividers of R406 (47_sw_phy_init.md; 44_mdio.md).
-/

namespace Sys2Proof.Machine

/-- The table of R563: the range of clocks of each entry. -/
theorem clkDiv_ranges (mck : Nat) :
    (clkDiv mck = some 0 ↔ mck ≤ 20000000)
    ∧ (clkDiv mck = some 1 ↔ mck ≤ 40000000 ∧ 20000000 < mck)
    ∧ (clkDiv mck = some 2 ↔ mck ≤ 80000000 ∧ 40000000 < mck)
    ∧ (clkDiv mck = some 3 ↔ mck ≤ 160000000 ∧ 80000000 < mck)
    ∧ (clkDiv mck = none ↔ 160000000 < mck) := by
  rw [clkDiv]
  repeat' split
  all_goals
    simp
    omega

theorem mdcDivider_table : mdcDivider 0 = 8 ∧ mdcDivider 1 = 16 ∧ mdcDivider 2 = 32 ∧ mdcDivider 3 = 64 :=
  ⟨rfl, rfl, rfl, rfl⟩

theorem eq_zero_or_one_or_two_or_three (d : BitVec 2) : d = 0 ∨ d = 1 ∨ d = 2 ∨ d = 3 := by
  revert d
  decide

/-- Settles O51: 2.5 MHz times a divider is the upper end of its entry's range, and the divider before it gives the
lower end. -/
theorem clockDividerKeepsMdcInRange : Obligations.ClockDividerKeepsMdcInRange := by
  refine ⟨fun mck d => ?_, mdcDivider_table, fun mck => ?_⟩
  all_goals obtain ⟨h0, h1, h2, h3, hnone⟩ := clkDiv_ranges mck
  · obtain rfl | rfl | rfl | rfl := eq_zero_or_one_or_two_or_three d
    · exact h0.trans (and_iff_left fun hne => absurd rfl hne).symm
    · exact h1.trans (and_congr_right' (imp_iff_right (by decide)).symm)
    · exact h2.trans (and_congr_right' (imp_iff_right (by decide)).symm)
    · exact h3.trans (and_congr_right' (imp_iff_right (by decide)).symm)
  · exact hnone

end Sys2Proof.Machine

/-!
PROOFS. O53: the identity check of `probe_and_negotiate()` (47_sw_phy_init.md R553; 44_mdio.md R423).
-/

namespace Sys2Proof.Machine

/-- A line with no access goes where `nextOf` says. -/
theorem lineStep_of_software {p : Point} {s : State} (hop : opOf s.cfg s.sw s.draws p = .software) (id : ContextId)
    (rest : List Point) : lineStep id p rest s = .next (putContext s id rest
      (nextOf s.cfg s.sw s.draws (contextOf s id) HostValue.nothing p)) := by
  rw [lineStep, hop, perform, andThen_next]

section Compare

variable {c : Config} {x : Context} {id1 : Half} (sw : Software) (d : Draws) (v : HostValue)

theorem nextOf_probeCompare_of_ne (h : id1 ++ x.ret.setWidth 16 ≠ c.phyId) :
    nextOf c sw d x v (.probeCompare id1) = returns x sw 0 := if_pos h

theorem nextOf_probeCompare_of_eq (h : id1 ++ x.ret.setWidth 16 = c.phyId) :
    nextOf c sw d x v (.probeCompare id1) =
      goOn x sw (if c.lineMode = .rmii then [.collaborator false, .probeAdvertise] else [.probeAdvertise]) := by
  rw [nextOf, if_neg (not_not_intro h)]
  cases c.lineMode <;> rfl

end Compare

/-- A PHY that meets `PHY_PRESENT` has answered the two reads with `PHY_ID`. -/
theorem identity_of_phyPresent {c : Config} {es : List Event} {id1 id2 : Half} (h : PhyPresent c es)
    (h1 : .mdioRead c.phyAddr 2 id1 ∈ es) (h2 : .mdioRead c.phyAddr 3 id2 ∈ es) : id1 ++ id2 = c.phyId := by
  rw [(h id1).1 h1, (h id2).2 h2]
  exact BitVec.extractLsb'_append_extractLsb'

/-- Settles O53: the comparison is the line's only branch but for the line mode, and `PHY_PRESENT` decides it. -/
theorem probeFailsExactlyOnAnotherIdentity : Obligations.ProbeFailsExactlyOnAnotherIdentity := by
  intro id id1 rest s x goes
  have hline := lineStep_of_software (p := .probeCompare id1) (s := s) rfl id rest
  have hgoes : id1 ++ x.ret.setWidth 16 = s.cfg.phyId → goes := fun heq =>
    hline.trans (by rw [nextOf_probeCompare_of_eq _ _ _ heq])
  refine ⟨fun hne => ?_, hgoes, fun hpresent h1 h2 => hgoes (identity_of_phyPresent hpresent h1 h2)⟩
  rw [hline, nextOf_probeCompare_of_ne _ _ _ hne]

end Sys2Proof.Machine

/-!
PROOFS. O59: every step keeps critical sections exclusive of each other and of the handler (60_exceptions.md R610, R612,
R617; 45_sw_transmit.md R457).
-/

namespace Sys2Proof.Machine

/-! ### What the agents leave to the host -/

/-- The three host contexts are as before. -/
def SameContexts (s t : State) : Prop := t.hostTx = s.hostTx ∧ t.hostRx = s.hostRx ∧ t.hostIsr = s.hostIsr

theorem sameContexts_refl (s : State) : SameContexts s s := ⟨rfl, rfl, rfl⟩

/-- Every command leaves the host contexts and the posted writes as they were. -/
theorem exec_sameContexts {i : Instr} {s t : State} (h : exec i s = .next t) : SameContexts s t ∧ t.pw = s.pw := by
  cases hf : i.format with
  | bus9 =>
    cases hr : Instr.isRegRead i with
    | true =>
      obtain ⟨v, rfl | ⟨-, rfl⟩⟩ := exec_read_cases hr h
      all_goals exact ⟨sameContexts_refl s, rfl⟩
    | false =>
      obtain ⟨regs, tx, rx, mdio, rfl⟩ := exec_write_cases hf hr h
      exact ⟨sameContexts_refl s, rfl⟩
  | txdW1 =>
    obtain ⟨-, hrest⟩ := exec_txForm_frame hf h
    rw [hrest]
    exact ⟨sameContexts_refl s, rfl⟩
  | rxdW0 =>
    have hrest : RxRestSame s t := by
      cases i with
      | rxdFree f => exact (exec_rxdFree_frame h).2
      | rxdFull f => exact (exec_rxdFull_frame h).2
      | _ => nomatch hf
    rw [hrest]
    exact ⟨sameContexts_refl s, rfl⟩
  | man32 =>
    obtain ⟨man, isr, busy, bit, events, rfl⟩ := exec_man32_cases hf h
    exact ⟨sameContexts_refl s, rfl⟩

theorem decodeTxd_format (w : Word) : (decodeTxd w).format = .txdW1 := by
  unfold decodeTxd
  split
  · rfl
  · split <;> rfl

theorem decodeRxd_format (w : Word) : (decodeRxd w).format = .rxdW0 := by
  simp only [decodeRxd]
  split <;> rfl

theorem runDecoded_eq_next {d : Except DecodeError Instr} {s t : State} :
    runDecoded d s = .next t ↔ ∃ i, d = .ok i ∧ exec i s = .next t := by
  cases d <;> simp [runDecoded]

/-- A frame in progress: the controller's step is a management command's (44_mdio.md R400). -/
theorem agentStep_mdio_of_busy {s t : State} (hb : s.mdio.busy = true) (h : agentStep .mdio s = .next t) :
    ∃ i, i.format = .man32 ∧ exec i s = .next t := by
  rw [agentStep, mdioStep, if_pos hb] at h
  obtain ⟨i, hi, h⟩ := runDecoded_eq_next.1 h
  exact ⟨i, decodeMan_format hi, h⟩

/-- An agent of the EMAC holds or runs one command; only `BUS` changes `pw`, and only `MDIO` runs a management frame. -/
theorem agentStep_emac_cases {g : Agent} {s t : State} (hg : g = .txe ∨ g = .rxe ∨ g = .mdio ∨ g = .bus)
    (h : agentStep g s = .next t) : t = s ∨ ∃ i pw, exec i { s with pw := pw } = .next t
      ∧ (g ≠ .bus → pw = s.pw) ∧ (g ≠ .mdio → i.format ≠ .man32) := by
  obtain rfl | rfl | rfl | rfl := hg
  · simp only [agentStep, txeStep] at h
    split at h
    · obtain ⟨w, -, h⟩ := andThen_eq_next.1 h
      exact .inr ⟨_, s.pw, h, fun _ => rfl, fun _ => by rw [decodeTxd_format]; decide⟩
    · cases h
      exact .inl rfl
  · obtain rfl | h := agentStep_rxe_cases h
    · exact .inl rfl
    · exact .inr ⟨_, s.pw, h, fun _ => rfl, fun _ => by rw [decodeRxd_format]; decide⟩
  · cases hb : s.mdio.busy with
    | true =>
      obtain ⟨i, -, h⟩ := agentStep_mdio_of_busy hb h
      exact .inr ⟨i, s.pw, h, fun _ => rfl, fun hne => absurd rfl hne⟩
    | false =>
      simp only [agentStep, mdioStep, hb] at h
      cases h
      exact .inl rfl
  · simp only [agentStep, busStep] at h
    split at h
    · cases h
      exact .inl rfl
    · next r v rest hpw =>
      obtain ⟨i, hi, h⟩ := runDecoded_eq_next.1 h
      exact .inr ⟨i, rest, h, fun hne => absurd rfl hne, fun _ => by rw [(decodeBus_write hi).1]; decide⟩

theorem agentStep_emac_sameContexts {g : Agent} {s t : State} (hg : g = .txe ∨ g = .rxe ∨ g = .mdio ∨ g = .bus)
    (h : agentStep g s = .next t) : SameContexts s t := by
  obtain rfl | ⟨i, pw, h, -, -⟩ := agentStep_emac_cases hg h
  · exact sameContexts_refl t
  · exact (exec_sameContexts h).1

theorem mediumStep_sameContexts (s : State) : SameContexts s (mediumStep s) := by
  unfold mediumStep
  split
  · split <;> exact sameContexts_refl s
  · exact sameContexts_refl s

/-- A host step's access moves no context. -/
theorem perform_sameContexts {op : HostOp} {s t : State} {v : HostValue} (h : perform op s = .next (some (t, v))) :
    SameContexts s t := by
  rcases perform_cases h with ⟨i, -, h⟩ | ⟨r, w, rfl⟩ | ⟨a, bs, rfl⟩ | rfl | rfl
  · exact (exec_sameContexts h).1
  all_goals exact ⟨rfl, rfl, rfl⟩

/-! ### Which lines stand inside a critical section (R617) -/

/-- None of the lines is inside a critical section. -/
def LinesOutside (ps : List Point) : Prop := ∀ q ∈ ps, insideCritical q = false

@[simp] theorem linesOutside_nil : LinesOutside [] := fun _ hq => absurd hq List.not_mem_nil

@[simp] theorem linesOutside_cons {p : Point} {ps : List Point} :
    LinesOutside (p :: ps) ↔ insideCritical p = false ∧ LinesOutside ps := List.forall_mem_cons

/-- Of the lines that follow the line `p`, only the first may be inside a critical section, and only if `p` is inside one or
enters one. -/
def FollowsCritical (p : Point) : List Point → Prop
  | [] => True
  | q :: callers => (insideCritical q = true → insideCritical p = true ∨ entersCritical p = true) ∧ LinesOutside callers

theorem followsCritical_of_outside {ps : List Point} (h : LinesOutside ps) (p : Point) : FollowsCritical p ps := by
  cases ps with
  | nil => trivial
  | cons q callers =>
    obtain ⟨hq, hcallers⟩ := linesOutside_cons.1 h
    exact ⟨fun hin => absurd hin (ne_true_of_eq_false hq), hcallers⟩

/-- After a line that is inside a section or enters one, any one line may follow. -/
theorem followsCritical_one {p : Point} (h : insideCritical p = true ∨ entersCritical p = true) (q : Point) :
    FollowsCritical p [q] := ⟨fun _ => h, linesOutside_nil⟩

theorem sendLoop_outside {x : Context} {sw : Software} {l : SendLocals} : LinesOutside (sendLoop x sw l).push := by
  unfold sendLoop
  split <;> simp [goOn, returns, insideCritical]

theorem readLoop_outside {x : Context} {sw : Software} {l : ReadLocals} : LinesOutside (readLoop x sw l).push := by
  unfold readLoop
  split <;> simp [goOn, insideCritical]

theorem lengthTest_outside {c : Config} {x : Context} {sw : Software} {j : Nat} {w1 : Word} :
    LinesOutside (lengthTest c x sw j w1).push := by
  unfold lengthTest
  split <;> simp [goOn, returns, insideCritical]

theorem startOf_outside {x : Context} {sw : Software} {k : Call} : LinesOutside (startOf x sw k).push := by
  cases k with
  | send frame isLast => exact sendLoop_outside
  | _ => simp [startOf, goOn, insideCritical]

/-- No line outside the sections and their entries leads into one. -/
theorem nextOf_outside (c : Config) (sw : Software) (d : Draws) (x : Context) (v : HostValue) {p : Point}
    (hin : insideCritical p = false) (hen : entersCritical p = false) : LinesOutside (nextOf c sw d x v p).push := by
  cases p with
  | sendCopy | bnaReadNcr | bnaReadNcrAgain | waitTake | mdioReadNcr | mdioReadNcrAgain | initReadNcr | disableReadNcr =>
    cases hen
  | sendHandover | sendReadNcr | sendStart | bnaDisable | bnaEnable | mdioEnable | mdioDisable | initEnable | disableNcr =>
    cases hin
  | readCheck l | readReclaim l w => exact readLoop_outside
  | readCopy l w =>
    simp only [nextOf]
    split
    · simp [goOn, insideCritical]
    · exact readLoop_outside
  | lengthWalkWord1 j | lengthDropReclaim j k w1 w =>
    simp only [nextOf]
    split
    · simp [goOn, insideCritical]
    · exact lengthTest_outside
  | setupTxWord1 i | setupRxWord0 i | sendWait l | bnaReclaim i w =>
    simp only [nextOf, goOn, linesOutside_cons]
    split <;> simp [insideCritical]
  | reclaimTest | reclaimMark w | lengthStatus | lengthSkipWord1 w | lengthWalkWord0 j | probeLink | collaborator framed
  | initProbed | eventRsr w | eventTsr w b =>
    simp only [nextOf]
    split <;> simp [goOn, returns, insideCritical]
  | mdioPoll op =>
    simp only [nextOf]
    split
    · split <;> simp [goOn, insideCritical]
    · simp [goOn, insideCritical]
  | probeCompare id1 =>
    simp only [nextOf]
    split
    · simp [returns]
    · split <;> simp [goOn, insideCritical]
  | _ => simp [nextOf, goOn, returns, insideCritical]

/-- A line of a section, and one that enters it, is followed by one line or by its callers; any other leads into none. -/
theorem nextOf_followsCritical (c : Config) (sw : Software) (d : Draws) (x : Context) (v : HostValue) (p : Point) :
    FollowsCritical p (nextOf c sw d x v p).push := by
  cases p with
  | sendHandover l =>
    simp only [nextOf]
    split
    · exact followsCritical_one (.inl rfl) _
    · exact followsCritical_of_outside sendLoop_outside _
  | sendStart l t => exact followsCritical_of_outside sendLoop_outside _
  | bnaEnable | waitTake | mdioDisable | initEnable => trivial
  | sendReadNcr | bnaDisable | mdioEnable | disableNcr => exact followsCritical_one (.inl rfl) _
  | sendCopy | bnaReadNcr | bnaReadNcrAgain | mdioReadNcr | mdioReadNcrAgain | initReadNcr | disableReadNcr =>
    exact followsCritical_one (.inr rfl) _
  | _ => exact followsCritical_of_outside (nextOf_outside c sw d x v rfl rfl) _

/-! ### A context that goes on -/

/-- The context a line or a call leaves, with the callers `stack` below it. -/
def Next.context (n : Next) (stack : List Point) : Context := { stack := n.push ++ stack, ret := n.ret, data := n.data }

theorem inCritical_eq_false_of_outside {x : Context} (h : LinesOutside x.stack) :
    inCritical x = false := by
  unfold inCritical
  split
  · next p rest hs => exact h p (by rw [hs]; exact List.mem_cons_self)
  · rfl

theorem callersOutside_of_outside {x : Context} (h : LinesOutside x.stack) : CallersOutside x :=
  fun q hq => h q (List.mem_of_mem_tail hq)

/-- After a line, no caller is inside a section, and the context is inside one only if the line was inside or entered. -/
theorem context_of_followsCritical {p : Point} {rest : List Point} {n : Next} (hrest : LinesOutside rest)
    (hn : FollowsCritical p n.push) : CallersOutside (n.context rest)
      ∧ (inCritical (n.context rest) = true → insideCritical p = true ∨ entersCritical p = true) := by
  obtain ⟨push, sw, ret, data⟩ := n
  cases push with
  | nil =>
    refine ⟨callersOutside_of_outside hrest, fun hin => ?_⟩
    rw [inCritical_eq_false_of_outside hrest] at hin
    cases hin
  | cons q callers =>
    obtain ⟨hq, hcallers⟩ := hn
    exact ⟨List.forall_mem_append.2 ⟨hcallers, hrest⟩, hq⟩

/-! ### When the handler runs and may start (R610) -/

theorem isIdle_iff {x : Context} : isIdle x = true ↔ x.stack = [] := List.isEmpty_iff

theorem isIdle_eq_false_iff {x : Context} : isIdle x = false ↔ x.stack ≠ [] := by
  rw [ne_eq, ← isIdle_iff, Bool.not_eq_true]

theorem interruptEnabled_iff {s : State} : interruptEnabled s = true ↔ irqLine s = true ∧ s.handler = true
    ∧ inCritical s.hostTx = false ∧ inCritical s.hostRx = false ∧ s.hostIsr.stack = [] := by
  simp only [interruptEnabled, Bool.and_eq_true, Bool.not_eq_true', isIdle_iff, and_assoc]

/-! ### What keeps the invariant -/

/-- The consumer contexts do not move, and the handler runs only where neither is inside a section. -/
theorem criticalExclusive_of_sameConsumers {s t : State} (h : CriticalExclusive s) (htx : t.hostTx = s.hostTx)
    (hrx : t.hostRx = s.hostRx)
    (hisr : isIdle t.hostIsr = false → inCritical s.hostTx = false ∧ inCritical s.hostRx = false) :
    CriticalExclusive t := by
  obtain ⟨hboth, -, hcallTx, hcallRx⟩ := h
  rw [CriticalExclusive, htx, hrx]
  exact ⟨hboth, hisr, hcallTx, hcallRx⟩

theorem criticalExclusive_of_sameContexts {s t : State} (h : CriticalExclusive s) (ht : SameContexts s t) :
    CriticalExclusive t := by
  obtain ⟨htx, hrx, hisr⟩ := ht
  obtain ⟨-, hhandler, -, -⟩ := id h
  exact criticalExclusive_of_sameConsumers h htx hrx fun hruns => hhandler (by rwa [hisr] at hruns)

/-- A consumer context moves while no handler runs, and is inside a section only if the other is not. -/
theorem putContext_criticalExclusive {id : ContextId} {s : State} {stack : List Point} {n : Next} (hid : id ≠ .isr)
    (h : CriticalExclusive s) (hidle : isIdle s.hostIsr = true) (hcallers : CallersOutside (n.context stack))
    (hother : inCritical (n.context stack) = true → otherInCritical s id = false) :
    CriticalExclusive (putContext s id stack n) := by
  obtain ⟨-, -, hcallTx, hcallRx⟩ := h
  have hrun : ∀ {P : Prop}, isIdle s.hostIsr = false → P := fun hn => absurd hidle (ne_true_of_eq_false hn)
  obtain rfl | rfl := eq_tx_or_rx_of_ne_isr hid
  · exact ⟨fun ⟨hin, hrx⟩ => absurd hrx (ne_true_of_eq_false (hother hin)), hrun, hcallers, hcallRx⟩
  · exact ⟨fun ⟨htx, hin⟩ => absurd htx (ne_true_of_eq_false (hother hin)), hrun, hcallTx, hcallers⟩

/-- The handler's context moves: the consumer contexts stay. -/
theorem putContext_isr_consumers (s : State) (stack : List Point) (n : Next) :
    (putContext s .isr stack n).hostTx = s.hostTx ∧ (putContext s .isr stack n).hostRx = s.hostRx := by
  simp only [putContext]
  split <;> exact ⟨rfl, rfl⟩

theorem otherInCritical_of_inside {id : ContextId} {s : State} (h : CriticalExclusive s) (hid : id ≠ .isr)
    (hin : inCritical (contextOf s id) = true) : otherInCritical s id = false := by
  obtain ⟨hboth, -⟩ := h
  obtain rfl | rfl := eq_tx_or_rx_of_ne_isr hid
  · exact eq_false_of_ne_true fun hrx => hboth ⟨hin, hrx⟩
  · exact eq_false_of_ne_true fun htx => hboth ⟨htx, hin⟩

theorem otherInCritical_congr {s t : State} (h : SameContexts s t) (id : ContextId) :
    otherInCritical t id = otherInCritical s id := by
  obtain ⟨htx, hrx, -⟩ := h
  cases id <;> simp only [otherInCritical, htx, hrx]

/-- While the handler runs, the consumer contexts take no step (R612). -/
theorem hostStep_of_handler {id : ContextId} {s : State} (hid : id ≠ .isr) (h : isIdle s.hostIsr = false) :
    hostStep id s = .next s := by
  rw [hostStep, if_pos (by simpa [h] using hid)]

theorem callersOutside_of_criticalExclusive {id : ContextId} {s : State} (h : CriticalExclusive s) (hid : id ≠ .isr) :
    CallersOutside (contextOf s id) := by
  obtain ⟨-, -, hcallTx, hcallRx⟩ := h
  obtain rfl | rfl := eq_tx_or_rx_of_ne_isr hid
  · exact hcallTx
  · exact hcallRx

/-- A consumer context enters a section only if the other is in none (log 14). -/
theorem hostStep_criticalExclusive {id : ContextId} {s t : State} (hid : id ≠ .isr) (h : CriticalExclusive s)
    (ht : hostStep id s = .next t) : CriticalExclusive t := by
  cases hidle : isIdle s.hostIsr with
  | false =>
    rw [hostStep_of_handler hid hidle] at ht
    cases ht
    exact h
  | true =>
    rcases hostStep_cases ht with rfl | ⟨k, -, -, -, rfl⟩ | ⟨p, rest, hstack, henter, hline⟩
    · exact h
    · have hout : LinesOutside ((startOf (contextOf s id) s.sw k).context []).stack :=
        List.forall_mem_append.2 ⟨startOf_outside, linesOutside_nil⟩
      refine putContext_criticalExclusive (s := { s with started := true }) hid h hidle (callersOutside_of_outside hout)
        fun hin => ?_
      rw [inCritical_eq_false_of_outside hout] at hin
      cases hin
    · rcases lineStep_cases hline with rfl | ⟨u, v, hu, rfl⟩
      · exact h
      · have hsame := perform_sameContexts hu
        have ⟨_, _, hisr⟩ := hsame
        have hrest : LinesOutside rest := by
          have hcallers := callersOutside_of_criticalExclusive h hid
          rwa [CallersOutside, hstack] at hcallers
        obtain ⟨hcallers, hin⟩ := context_of_followsCritical hrest
          (nextOf_followsCritical s.cfg s.sw s.draws (contextOf s id) v p)
        refine putContext_criticalExclusive hid (criticalExclusive_of_sameContexts h hsame)
          (by rw [hisr]; exact hidle) hcallers fun hc => ?_
        rw [otherInCritical_congr hsame]
        rcases hin hc with hp | hp
        · exact otherInCritical_of_inside h hid (by rw [inCritical, hstack]; exact hp)
        · rw [hp, Bool.true_and] at henter
          exact henter

/-- The handler takes a step only while it runs, and it moves no consumer context. -/
theorem hostStep_isr_criticalExclusive {s t : State} (h : CriticalExclusive s) (ht : hostStep .isr s = .next t) :
    CriticalExclusive t := by
  rcases hostStep_cases ht with rfl | ⟨k, -, -, hcall, -⟩ | ⟨p, rest, hstack, -, hline⟩
  · exact h
  · cases hcall
  · rcases lineStep_cases hline with rfl | ⟨u, v, hu, rfl⟩
    · exact h
    · obtain ⟨htx, hrx, -⟩ := perform_sameContexts hu
      obtain ⟨htx', hrx'⟩ := putContext_isr_consumers u rest (nextOf s.cfg s.sw s.draws s.hostIsr v p)
      have hruns : isIdle s.hostIsr = false := isIdle_eq_false_iff.2 fun hnil => nomatch hstack.symm.trans hnil
      obtain ⟨-, hhandler, -, -⟩ := id h
      exact criticalExclusive_of_sameConsumers h (htx'.trans htx) (hrx'.trans hrx) fun _ => hhandler hruns

/-- Interrupt entry waits until no consumer context is inside a section (R610). -/
theorem enterInterrupt_criticalExclusive {s : State} (h : CriticalExclusive s) (he : interruptEnabled s = true) :
    CriticalExclusive (enterInterrupt s) := by
  obtain ⟨-, -, htx, hrx, -⟩ := interruptEnabled_iff.1 he
  exact criticalExclusive_of_sameConsumers h rfl rfl fun _ => ⟨htx, hrx⟩

theorem agentStep_criticalExclusive {g : Agent} {s t : State} (h : CriticalExclusive s) (ht : agentStep g s = .next t) :
    CriticalExclusive t := by
  cases g with
  | txe | rxe | mdio | bus => exact criticalExclusive_of_sameContexts h (agentStep_emac_sameContexts (by decide) ht)
  | hostTx | hostRx => exact hostStep_criticalExclusive (by decide) h ht
  | hostIsr => exact hostStep_isr_criticalExclusive h ht
  | phy =>
    cases ht
    exact h
  | medium =>
    cases ht
    exact criticalExclusive_of_sameContexts h (mediumStep_sameContexts s)
  | intc =>
    cases ht
    unfold intcStep
    split
    · next he => exact enterInterrupt_criticalExclusive h he
    · exact h
  | reset =>
    cases ht
    exact criticalExclusive_of_sameContexts h (sameContexts_refl s)

/-- Settles O59: the EMAC and its environment move no context, a consumer context enters a section only if the other is in
none, and the handler starts only if neither is. -/
theorem stepKeepsCriticalSectionsExclusive : Obligations.StepKeepsCriticalSectionsExclusive := by
  intro s t h ht
  obtain ⟨-, u, hu, rfl⟩ := step_eq_next.1 ht
  exact criticalExclusive_of_sameContexts (agentStep_criticalExclusive h hu)
    ⟨endStep_hostTx .., endStep_hostRx .., endStep_hostIsr ..⟩

end Sys2Proof.Machine

/-!
PROOFS. O39, O40 and O41: the interrupt line, its events, and interrupt entry (60_exceptions.md R600, R603, R610, R612;
00_scope.md R18).
-/

namespace Sys2Proof.Machine

/-! ### The line (R603) -/

/-- The implemented causes (R600). -/
theorem getLsbD_intImpl (k : Nat) : intImpl.getLsbD k = true ↔ k < 8 ∨ k = 10 ∨ k = 11 := by
  by_cases hk : k < 32
  · revert k
    decide
  · rw [BitVec.getLsbD_of_ge _ _ (by omega)]
    exact ⟨nofun, fun h => by omega⟩

/-- Settles O39: the line is 1 where `ISR`, the complement of the mask and the implemented causes have a common bit. -/
theorem irqIsAnUnmaskedPendingCause : Obligations.IrqIsAnUnmaskedPendingCause := by
  intro s
  simp only [irqLine, bne_iff_ne, ne_eq, and_eq_zero_iff, getLsbD_intImpl, getLsbD_and_not, not_forall, exists_prop,
    Bool.not_eq_false, Bool.and_eq_true, Bool.not_eq_true']

/-! ### The history (R18) -/

/-- The history has grown by events none of which is an `Irq` event. -/
def AppendsNoIrq (s t : State) : Prop := ∃ es : List Event, (∀ e ∈ es, ∀ l, e ≠ .irq l) ∧ t.events = s.events ++ es

theorem appendsNoIrq_of_same {s t : State} (h : t.events = s.events) : AppendsNoIrq s t :=
  ⟨[], fun _ he => absurd he List.not_mem_nil, by rw [h, List.append_nil]⟩

theorem appendsNoIrq_of_one {s t : State} {e : Event} (h : t.events = s.events ++ [e]) (he : ∀ l, e ≠ .irq l) :
    AppendsNoIrq s t := ⟨[e], List.forall_mem_singleton.2 he, h⟩

theorem afterFill_events (f : RxFields) (s : State) (g : RxFrame) (p : Word) :
    (afterFill f s g p).events = s.events := by
  unfold afterFill
  split <;> rfl

/-- A period of a management frame appends what its completion does, or nothing. -/
theorem mdioPeriod_appendsNoIrq {s t k : State} (h : mdioPeriod s k = .next t) (hk : AppendsNoIrq s k) :
    AppendsNoIrq s t := by
  rcases mdioPeriod_eq_next.1 h with ⟨-, rfl⟩ | ⟨-, -, rfl⟩ | ⟨-, -, rfl⟩
  · exact appendsNoIrq_of_same rfl
  · exact appendsNoIrq_of_same rfl
  · exact hk

theorem exec_bus9_events {i : Instr} {s t : State} (hi : i.format = .bus9) (h : exec i s = .next t) :
    t.events = s.events := by
  cases hr : Instr.isRegRead i with
  | true =>
    obtain ⟨v, rfl | ⟨-, rfl⟩⟩ := exec_read_cases hr h
    all_goals rfl
  | false =>
    obtain ⟨regs, tx, rx, mdio, rfl⟩ := exec_write_cases hi hr h
    rfl

theorem exec_appendsNoIrq {i : Instr} {s t : State} (h : exec i s = .next t) : AppendsNoIrq s t := by
  cases i with
  | txdStop last f =>
    rcases (execTxdStop_eq_next (last := last) (f := f)).1 h with ⟨-, rfl⟩ | ⟨-, -, rfl⟩ | ⟨-, fr, -, -, rfl⟩
    · exact appendsNoIrq_of_same rfl
    · exact appendsNoIrq_of_same rfl
    · exact appendsNoIrq_of_one rfl nofun
  | txdBuf f =>
    obtain ⟨-, -, hevents, -⟩ := exec_txdBuf_frame h
    exact appendsNoIrq_of_same hevents
  | txdLast f =>
    rcases execTxdLast_eq_next.1 h with ⟨-, rfl⟩ | ⟨-, -, p, -, -, rfl⟩
    · exact appendsNoIrq_of_same rfl
    · exact appendsNoIrq_of_one rfl nofun
  | rxdFree f =>
    rcases execRxdFree_eq_next.1 h with ⟨-, rfl⟩ | ⟨g, -, -, -, -, p, -, rfl⟩
    · exact appendsNoIrq_of_same rfl
    · exact appendsNoIrq_of_same (afterFill_events f s g p)
  | rxdFull f =>
    rcases (execRxdFull_eq_next (f := f)).1 h with ⟨-, rfl⟩ | ⟨-, -, rfl⟩
    all_goals exact appendsNoIrq_of_same rfl
  | mdioRead f => exact mdioPeriod_appendsNoIrq (k := mdioReadDone f s) h (appendsNoIrq_of_one rfl nofun)
  | mdioWrite f => exact mdioPeriod_appendsNoIrq (k := mdioWriteDone f s) h (appendsNoIrq_of_one rfl nofun)
  | _ => exact appendsNoIrq_of_same (exec_bus9_events rfl h)

theorem mediumStep_appendsNoIrq (s : State) : AppendsNoIrq s (mediumStep s) := by
  unfold mediumStep
  split
  · split <;> exact appendsNoIrq_of_one rfl nofun
  · exact appendsNoIrq_of_same rfl

theorem hostEffect_appendsNoIrq {s u : State} (h : HostEffect s u) : AppendsNoIrq s u := by
  rcases h with ⟨i, -, h⟩ | ⟨r, w, rfl⟩ | ⟨a, bs, rfl⟩ | rfl | rfl | rfl
  · exact exec_appendsNoIrq h
  all_goals exact appendsNoIrq_of_same rfl

/-- No agent's own step appends an `Irq` event; only the end of a step does. -/
theorem agentStep_appendsNoIrq {g : Agent} {s t : State} (h : agentStep g s = .next t) : AppendsNoIrq s t := by
  rcases agentStep_cases h with rfl | ⟨i, -, h⟩ | ⟨r, v, rest, i, -, -, h⟩ | rfl | ⟨-, rfl⟩ | ⟨id, u, stack, n, hu, rfl⟩ | rfl
  · exact appendsNoIrq_of_same rfl
  · exact exec_appendsNoIrq h
  · exact exec_appendsNoIrq (s := { s with pw := rest }) h
  · exact mediumStep_appendsNoIrq s
  · exact appendsNoIrq_of_same rfl
  · rw [AppendsNoIrq, putContext_events]
    exact hostEffect_appendsNoIrq hu
  · exact appendsNoIrq_of_same rfl

theorem irqLine_endStep (b s : State) : irqLine (endStep b s) = irqLine s := by
  rw [irqLine, endStep_regs, irqLine]

/-- The end of a step appends one `Irq` event if the level has changed. -/
theorem endStep_events (b s : State) :
    (endStep b s).events = s.events ++ if irqLine s = irqLine b then [] else [.irq (irqLine s)] := by
  rw [endStep, redraw_events, noteIrq]
  split
  · rw [List.append_nil]
  · rfl

/-- Settles O40: the agent's step appends no `Irq` event, and the end of the step appends one if the level changed. -/
theorem irqChangesAreEvents : Obligations.IrqChangesAreEvents := by
  intro s t h
  obtain ⟨-, u, hu, rfl⟩ := step_eq_next.1 h
  obtain ⟨es, hes, hevents⟩ := agentStep_appendsNoIrq hu
  exact ⟨es, hes, by rw [endStep_events, irqLine_endStep, hevents]⟩

/-! ### Interrupt entry (R610, R612) -/

/-- Settles O41: `INTC` tests the conditions of R610, and a consumer context tests R612 first. -/
theorem interruptEntryStartsTheHandler : Obligations.InterruptEntryStartsTheHandler := by
  intro s may
  refine ⟨fun h => ?enters, fun h => ?waits, fun h => ?held⟩
  case enters => rw [agentStep, intcStep, if_pos (interruptEnabled_iff.2 h), enterInterrupt]
  case waits => rw [agentStep, intcStep, if_neg (mt interruptEnabled_iff.1 h)]
  case held =>
    have hrun := isIdle_eq_false_iff.2 h
    exact ⟨hostStep_of_handler (id := .tx) nofun hrun, hostStep_of_handler (id := .rx) nofun hrun⟩

end Sys2Proof.Machine

/-!
PROOFS. O1, O2, O3 and O4: the state after a reset (70_reset_and_hazards.md R650 to R653).
-/

namespace Sys2Proof.Machine

/-! ### The EMAC after a reset (R651) -/

/-- A power-on and a platform reset leave the same EMAC. -/
theorem afterReset_emac {s : State} (h : AfterReset s) : s.regs = Regs.reset ∧ s.tx = TxEngine.reset
    ∧ s.rx = RxEngine.reset ∧ s.mdio = MdioState.reset ∧ s.pw = [] := by
  obtain ⟨c, d, rfl⟩ | ⟨s0, h⟩ := h
  · exact ⟨rfl, rfl, rfl, rfl, rfl⟩
  · cases h
    exact ⟨rfl, rfl, rfl, rfl, rfl⟩

/-- Settles O1: each row is a field of the EMAC after a reset, or is computed from such fields and the drawn `MDIO` pin. -/
theorem resetGivesTheTableValues : Obligations.ResetGivesTheTableValues := by
  intro s h
  obtain ⟨hregs, htx, hrx, hmdio, hpw⟩ := afterReset_emac h
  have hidle : (nsrValue s).getLsbD 2 = !s.mdio.busy := getLsbD_nsrValue s 2
  have hpin : (nsrValue s).getLsbD 1 = s.draws.word.getLsbD 1 := getLsbD_nsrValue s 1
  simp only [hidle, hpin, ncrValue, tsrValue, irqLine, hregs, htx, hrx, hmdio, hpw, true_and]
  decide

/-- Settles O2: the three engines are idle and `pw` is empty, and a platform reset is the update `platformReset`. -/
theorem resetEnablesNoEngine : Obligations.ResetEnablesNoEngine := by
  refine ⟨fun s h g hg => ?_, fun s => ⟨platformReset s, rfl, rfl, rfl, rfl, rfl, rfl, rfl, rfl, rfl, rfl⟩⟩
  obtain ⟨-, htx, hrx, hmdio, hpw⟩ := afterReset_emac h
  obtain rfl | rfl | rfl | rfl := hg
  · simp [agentEnabled, agentStep, txeStep, htx, TxEngine.reset]
  · simp [agentEnabled, agentStep, rxeStep, hrx, RxEngine.reset]
  · simp [agentEnabled, agentStep, mdioStep, hmdio, MdioState.reset]
  · simp [agentEnabled, agentStep, busStep, hpw]

/-! ### The host's first action (R653) -/

/-- An idle context takes its turn while no handler runs: it makes the drawn call, if it may. -/
theorem hostStep_of_idle {id : ContextId} {s : State} (hisr : s.hostIsr.stack = [])
    (hid : (contextOf s id).stack = []) : hostStep id s = callStep id s := by
  have hrun : (id != .isr && !isIdle s.hostIsr) = false := by rw [isIdle_iff.2 hisr, Bool.not_true, Bool.and_false]
  simp [hostStep, hrun, hid]

/-- Before the first action the only call allowed is one of `init()`. -/
theorem callStep_of_not_init {id : ContextId} {s : State} (hs : s.started = false) (hcall : s.draws.call ≠ some .init) :
    callStep id s = .next s := by
  unfold callStep
  split
  · rfl
  · next k hk =>
    have hne : k ≠ .init := fun he => hcall (he ▸ hk)
    simp [callAllowed, hs, hne]

/-- Either consumer context may call `init()` at any time. -/
theorem callStep_of_init {id : ContextId} {s : State} (hid : id ≠ .isr) (hcall : s.draws.call = some .init) :
    callStep id s = .next (putContext { s with started := true } id [] (goOn (contextOf s id) s.sw [.initHwReset])) := by
  have hallowed : callAllowed id .init s = true := by
    obtain rfl | rfl := eq_tx_or_rx_of_ne_isr hid
    all_goals exact Bool.or_true _
  simp only [callStep, hcall, hallowed, if_pos, startOf]

theorem contextOf_putContext {id : ContextId} (hid : id ≠ .isr) (s : State) (stack : List Point) (n : Next) :
    contextOf (putContext s id stack n) id = n.context stack := by
  obtain rfl | rfl := eq_tx_or_rx_of_ne_isr hid <;> rfl

/-- Settles O3: an idle context makes the drawn call, which before the first action may only be one of `init()`. -/
theorem firstHostActionIsInit : Obligations.FirstHostActionIsInit := by
  refine ⟨fun c d id => ⟨by cases id <;> rfl, rfl⟩, fun id s hs hisr hid => ?_⟩
  rw [agentStep_agentOf, hostStep_of_idle hisr hid]
  refine ⟨callStep_of_not_init hs, fun hcall hne => ⟨_, callStep_of_init hne hcall, ?started, ?line, ?rest⟩⟩
  case started => rw [putContext_started]
  case line => rw [contextOf_putContext hne]; rfl
  case rest => simp [goOn]

/-! ### The invariants -/

/-- Settles O4: the EMAC is that of a platform reset, every context is idle, and nothing is written in memory. -/
theorem resetMeetsTheInvariants : Obligations.ResetMeetsTheInvariants := by
  intro c d
  refine ⟨platformReset_hardwareOk (State.resetWith c d), ?critical, List.Pairwise.nil, nofun⟩
  case critical =>
    have hidle : CallersOutside Context.idle := linesOutside_nil
    exact ⟨fun ⟨htx, _⟩ => (nomatch htx), nofun, hidle, hidle⟩

end Sys2Proof.Machine

/-!
PROOFS. O56: in a fair run the posted writes and the management frames make progress (70_reset_and_hazards.md R671;
41_host_registers.md R252; 44_mdio.md R409).
-/

namespace Sys2Proof.Machine

/-! ### A step of a run -/

/-- Between two states of a run lies one step of the agent drawn; the end of the step leaves `pw` and the controller. -/
theorem follows_cases {s t : State} (h : Follows s t) :
    ∃ u, agentStep s.draws.agent s = .next u ∧ t.pw = u.pw ∧ t.mdio = u.mdio := by
  obtain ⟨e, hstep, ht⟩ := h
  obtain ⟨-, u, hu, rfl⟩ := step_eq_next.1 hstep
  rw [ht]
  exact ⟨u, hu, endStep_pw .., endStep_mdio ..⟩

/-! ### Posted writes (R252) -/

theorem mediumStep_pw (s : State) : (mediumStep s).pw = s.pw := by
  obtain ⟨-, -, hpw, -⟩ := mediumStep_restartsOnly s
  exact hpw

/-- A host step posts at most one more write. -/
theorem hostStep_pw_ne_nil {id : ContextId} {s t : State} (hp : s.pw ≠ []) (h : hostStep id s = .next t) : t.pw ≠ [] := by
  obtain rfl | ⟨u, stack, n, hu, rfl⟩ := hostStep_effect h
  · exact hp
  · rw [putContext_pw]
    rcases hu with ⟨i, -, hi⟩ | ⟨r, w, rfl⟩ | ⟨a, bs, rfl⟩ | rfl | rfl | rfl
    · rwa [(exec_sameContexts hi).2]
    · exact List.append_ne_nil_of_left_ne_nil hp _
    all_goals exact hp

/-- Only `BUS` and a reset take posted writes away. -/
theorem agentStep_pw_ne_nil {g : Agent} {s t : State} (hp : s.pw ≠ []) (h : agentStep g s = .next t) (hbus : g ≠ .bus)
    (hreset : g ≠ .reset) : t.pw ≠ [] := by
  cases g with
  | txe | rxe | mdio =>
    obtain rfl | ⟨i, pw, hi, hpw, -⟩ := agentStep_emac_cases (by decide) h
    · exact hp
    · rw [(exec_sameContexts hi).2]
      exact (hpw hbus).trans_ne hp
  | hostTx | hostRx | hostIsr => exact hostStep_pw_ne_nil hp h
  | phy =>
    cases h
    exact hp
  | medium =>
    cases h
    rwa [mediumStep_pw]
  | intc =>
    cases h
    unfold intcStep
    split <;> exact hp
  | bus => exact absurd rfl hbus
  | reset => exact absurd rfl hreset

/-- A posted write waits until `BUS` steps or a reset comes, and `BUS` is enabled all along. -/
theorem fairRun_performs_posted {r : Nat → State} (hr : FairRun r) {n : Nat} (hp : (r n).pw ≠ []) :
    ∃ m, n ≤ m ∧ (((r m).draws.agent = .bus ∧ (r m).pw ≠ []) ∨ (r m).draws.agent = .reset) := by
  obtain ⟨hrun, hfair⟩ := hr
  by_contra hnone
  push Not at hnone
  have hposted : ∀ m, n ≤ m → (r m).pw ≠ [] := by
    intro m hm
    induction m, hm using Nat.le_induction with
    | base => exact hp
    | succ m hm ih =>
      obtain ⟨hbus, hreset⟩ := hnone m hm
      obtain ⟨u, hu, hpw, -⟩ := follows_cases (hrun m)
      rw [hpw]
      exact agentStep_pw_ne_nil ih hu (fun hg => ih (hbus hg)) hreset
  obtain ⟨m, hm, hg⟩ := hfair .bus (by decide) n fun m hm => by simpa [agentEnabled] using hposted m hm
  exact hposted m hm ((hnone m hm).1 hg)

/-! ### Management frames (R409) -/

/-- While a frame is in progress, no command but the frame itself changes the controller: a write of `MAN` faults (R403). -/
theorem exec_mdio_of_busy {i : Instr} {s t : State} (hb : s.mdio.busy = true) (hi : i.format ≠ .man32)
    (h : exec i s = .next t) : t.mdio = s.mdio := by
  cases i with
  | mdioRead f | mdioWrite f => exact absurd rfl hi
  | rdNcr | rdNcfg | rdNsr | rdTsr | rdRbqp | rdTbqp | rdRsr | rdIsr | rdImr | rdMan | rdSa1b | rdSa1t | rdUsrio =>
    obtain ⟨v, rfl | ⟨-, rfl⟩⟩ := exec_read_cases rfl h
    all_goals rfl
  | wrTsr v | wrRsr v | wrIer v | wrIdr v | wrSa1t v | wrUsrio v =>
    obtain ⟨-, h⟩ := ifAccepted_eq_next.1 h
    cases h
    rfl
  | wrSa1b v =>
    cases h
    rfl
  | wrNcr v =>
    obtain ⟨-, h⟩ := ifAccepted_eq_next.1 h
    split at h
    · cases h
    · cases h
      rw [writeNcr_eq]
  | wrNcfg v =>
    obtain ⟨-, h⟩ := ifAccepted_eq_next.1 h
    split at h
    · cases h
    · cases h
      rfl
  | wrRbqp v | wrTbqp v =>
    obtain ⟨-, h⟩ := ifQueueAligned_eq_next.1 h
    split at h
    · cases h
    · cases h
      rfl
  | wrMan v =>
    rw [exec, execWrMan, if_pos hb] at h
    cases h
  | txdStop last f | txdBuf f | txdLast f =>
    obtain ⟨-, hrest⟩ := exec_txForm_frame rfl h
    rw [hrest]
  | rxdFree f =>
    obtain ⟨-, hrest⟩ := exec_rxdFree_frame h
    rw [hrest]
  | rxdFull f =>
    obtain ⟨-, hrest⟩ := exec_rxdFull_frame h
    rw [hrest]

theorem hostStep_mdio_of_busy {id : ContextId} {s t : State} (hb : s.mdio.busy = true) (h : hostStep id s = .next t) :
    t.mdio = s.mdio := by
  obtain rfl | ⟨u, stack, n, hu, rfl⟩ := hostStep_effect h
  · rfl
  · rw [putContext_mdio]
    rcases hu with ⟨i, hr, hi⟩ | ⟨r, w, rfl⟩ | ⟨a, bs, rfl⟩ | rfl | rfl | rfl
    · obtain ⟨v, rfl | ⟨-, rfl⟩⟩ := exec_read_cases hr hi
      all_goals rfl
    all_goals rfl

theorem mediumStep_mdio (s : State) : (mediumStep s).mdio = s.mdio := by
  unfold mediumStep
  split
  · split <;> rfl
  · rfl

/-- The controller's step with a frame in progress ends the frame or counts one of the periods before the last (R406, R409). -/
theorem agentStep_mdio_counts {s t : State} (hb : s.mdio.busy = true) (h : agentStep .mdio s = .next t) :
    t.mdio.busy = false ∨ (s.mdio.bit < 63 ∧ t.mdio.bit = s.mdio.bit + 1) := by
  obtain ⟨i, hi, h⟩ := agentStep_mdio_of_busy hb h
  obtain ⟨v, e, hperiod⟩ := exec_man32_eq_mdioPeriod hi s
  rcases mdioPeriod_eq_next.1 (hperiod.symm.trans h) with ⟨hidle, -⟩ | ⟨-, hlt, rfl⟩ | ⟨-, -, rfl⟩
  · rw [hb] at hidle
    cases hidle
  · exact .inr ⟨hlt, rfl⟩
  · exact .inl rfl

/-- No other agent's step changes the frame in progress, but for a reset, which ends it. -/
theorem agentStep_mdio_of_other {g : Agent} {s t : State} (hb : s.mdio.busy = true) (hg : g ≠ .mdio)
    (h : agentStep g s = .next t) : t.mdio.busy = false ∨ t.mdio = s.mdio := by
  cases g with
  | txe | rxe | bus =>
    obtain rfl | ⟨i, pw, hi, -, hman⟩ := agentStep_emac_cases (by decide) h
    · exact .inr rfl
    · exact .inr (exec_mdio_of_busy (s := { s with pw := pw }) hb (hman hg) hi)
  | mdio => exact absurd rfl hg
  | hostTx | hostRx | hostIsr => exact .inr (hostStep_mdio_of_busy hb h)
  | phy =>
    cases h
    exact .inr rfl
  | medium =>
    cases h
    exact .inr (mediumStep_mdio s)
  | intc =>
    cases h
    unfold intcStep
    split <;> exact .inr rfl
  | reset =>
    cases h
    exact .inl rfl

section Busy

variable {r : Nat → State} {n : Nat} (hrun : IsRun r) (hbusy : ∀ m, n ≤ m → (r m).mdio.busy = true)

include hrun hbusy

/-- While a frame stays in progress, each step of the controller is a period before the last and is counted. -/
theorem run_mdio_counts {m : Nat} (hm : n ≤ m) (hg : (r m).draws.agent = .mdio) :
    (r m).mdio.bit < 63 ∧ (r (m + 1)).mdio.bit = (r m).mdio.bit + 1 := by
  obtain ⟨u, hu, -, hmdio⟩ := follows_cases (hrun m)
  have hnext := hbusy (m + 1) (by omega)
  rw [hmdio] at hnext ⊢
  obtain hend | hcount := agentStep_mdio_counts (hbusy m hm) (hg ▸ hu)
  · rw [hnext] at hend
    cases hend
  · exact hcount

/-- While a frame stays in progress, `mdio_bit` never falls. -/
theorem run_mdio_bit_le {k m : Nat} (hk : n ≤ k) (hkm : k ≤ m) : (r k).mdio.bit ≤ (r m).mdio.bit := by
  induction m, hkm using Nat.le_induction with
  | base => exact Nat.le_refl _
  | succ m hm ih =>
    by_cases hg : (r m).draws.agent = .mdio
    · have := (run_mdio_counts hrun hbusy (by omega) hg).2
      omega
    · obtain ⟨u, hu, -, hmdio⟩ := follows_cases (hrun m)
      have hnext := hbusy (m + 1) (by omega)
      rw [hmdio] at hnext ⊢
      obtain hend | hsame := agentStep_mdio_of_other (hbusy m (by omega)) hg hu
      · rw [hnext] at hend
        cases hend
      · rwa [hsame]

/-- With the controller fair, a frame that stays in progress would be counted beyond any bound. -/
theorem run_mdio_bit_unbounded (hfair : WeaklyFair .mdio r) (k : Nat) : ∃ m, n ≤ m ∧ k ≤ (r m).mdio.bit := by
  induction k with
  | zero => exact ⟨n, Nat.le_refl n, Nat.zero_le _⟩
  | succ k ih =>
    obtain ⟨m, hm, hk⟩ := ih
    obtain ⟨j, hj, hg⟩ := hfair m fun j hj => hbusy j (by omega)
    have hle := run_mdio_bit_le hrun hbusy hm hj
    have hcount := (run_mdio_counts hrun hbusy (by omega) hg).2
    exact ⟨j + 1, by omega, by omega⟩

end Busy

/-- A frame takes 64 steps of the controller, and the controller is enabled until it ends. -/
theorem fairRun_ends_frame {r : Nat → State} (hr : FairRun r) (n : Nat) : ∃ m, n ≤ m ∧ (r m).mdio.busy = false := by
  obtain ⟨hrun, hfair⟩ := hr
  by_contra hnone
  have hbusy : ∀ m, n ≤ m → (r m).mdio.busy = true := fun m hm => by
    simpa using fun hidle => hnone ⟨m, hm, hidle⟩
  have hmdio : WeaklyFair .mdio r := hfair .mdio (by decide)
  obtain ⟨m, hm, hbit⟩ := run_mdio_bit_unbounded hrun hbusy hmdio 64
  obtain ⟨j, hj, hg⟩ := hmdio m fun j hj => hbusy j (by omega)
  have hlt := (run_mdio_counts hrun hbusy (by omega) hg).1
  have hle := run_mdio_bit_le hrun hbusy hm hj
  omega

/-- Settles O56: a posted write keeps `BUS` enabled and a frame in progress keeps the controller enabled, so both step. -/
theorem fairRunsMakeProgress : Obligations.FairRunsMakeProgress :=
  fun _ hr n => ⟨fun hp => fairRun_performs_posted hr hp, fun _ => fairRun_ends_frame hr n⟩

end Sys2Proof.Machine
